-- ==== Sys2Proof/Word.lean ====
section
/-! DEFINITION. The two word widths of the machine (spec/00_scope.md R7: XLEN 8, ILEN and PCLEN 16). -/

namespace Sys2Proof

/-- One byte: a cell of `memory`, a general register, a timer, an immediate `NN` (R21, R60, R93). -/
abbrev Byte := BitVec 8

/-- One 16-bit word: `pc`, `program_end`, `I`, a stack entry, an opcode (R23, R25, R26, R27, R90). -/
abbrev Word := BitVec 16

/-- The number of a general register, 0 to 15 (R21). -/
abbrev Reg := Fin 16

end Sys2Proof
end

