-- ==== Sys2Proof/Syntax.lean ====
section
/-! DEFINITION. The instruction forms: one constructor per row of spec/opcode_table.json (spec/30_encoding.md R96), with the
operand fields of R92 that the row's encoding has. -/

namespace Sys2Proof

/-- The 35 instruction forms of R96, in the table's order. Register numbers are `Reg`, immediates are bit vectors of the
field's width (R93). The fields a form ignores (`NNN` of `0NNN`, `Y` of `8XY6` and `8XYE`, R103) are kept, so that
a word is recovered from its instruction. -/
inductive Instr where
  /-- `00E0` CLS -/
  | cls
  /-- `00EE` RET -/
  | ret
  /-- `0NNN` SYS addr -/
  | sys (nnn : BitVec 12)
  /-- `1NNN` JP addr -/
  | jp (nnn : BitVec 12)
  /-- `2NNN` CALL addr -/
  | call (nnn : BitVec 12)
  /-- `3XNN` SE Vx, byte -/
  | seByte (x : Reg) (nn : Byte)
  /-- `4XNN` SNE Vx, byte -/
  | sneByte (x : Reg) (nn : Byte)
  /-- `5XY0` SE Vx, Vy -/
  | seReg (x y : Reg)
  /-- `6XNN` LD Vx, byte -/
  | ldByte (x : Reg) (nn : Byte)
  /-- `7XNN` ADD Vx, byte -/
  | addByte (x : Reg) (nn : Byte)
  /-- `8XY0` LD Vx, Vy -/
  | ldReg (x y : Reg)
  /-- `8XY1` OR Vx, Vy -/
  | orReg (x y : Reg)
  /-- `8XY2` AND Vx, Vy -/
  | andReg (x y : Reg)
  /-- `8XY3` XOR Vx, Vy -/
  | xorReg (x y : Reg)
  /-- `8XY4` ADD Vx, Vy -/
  | addReg (x y : Reg)
  /-- `8XY5` SUB Vx, Vy -/
  | subReg (x y : Reg)
  /-- `8XY6` SHR Vx; the `Y` field is ignored -/
  | shr (x y : Reg)
  /-- `8XY7` SUBN Vx, Vy -/
  | subnReg (x y : Reg)
  /-- `8XYE` SHL Vx; the `Y` field is ignored -/
  | shl (x y : Reg)
  /-- `9XY0` SNE Vx, Vy -/
  | sneReg (x y : Reg)
  /-- `ANNN` LD I, addr -/
  | ldI (nnn : BitVec 12)
  /-- `BNNN` JP V0, addr -/
  | jpV0 (nnn : BitVec 12)
  /-- `CXNN` RND Vx, byte -/
  | rnd (x : Reg) (nn : Byte)
  /-- `DXYN` DRW Vx, Vy, nibble -/
  | drw (x y : Reg) (n : BitVec 4)
  /-- `EX9E` SKP Vx -/
  | skp (x : Reg)
  /-- `EXA1` SKNP Vx -/
  | sknp (x : Reg)
  /-- `FX07` LD Vx, DT -/
  | ldVxDt (x : Reg)
  /-- `FX0A` LD Vx, K -/
  | ldVxK (x : Reg)
  /-- `FX15` LD DT, Vx -/
  | ldDtVx (x : Reg)
  /-- `FX18` LD ST, Vx -/
  | ldStVx (x : Reg)
  /-- `FX1E` ADD I, Vx -/
  | addIVx (x : Reg)
  /-- `FX29` LD F, Vx -/
  | ldFVx (x : Reg)
  /-- `FX33` LD B, Vx -/
  | ldBVx (x : Reg)
  /-- `FX55` LD [I], Vx -/
  | ldMemVx (x : Reg)
  /-- `FX65` LD Vx, [I] -/
  | ldVxMem (x : Reg)
deriving DecidableEq, Repr

/-- The pattern that is the form's primary name (R96, R105). -/
def Instr.pattern : Instr → String
  | .cls => "00E0"
  | .ret => "00EE"
  | .sys _ => "0NNN"
  | .jp _ => "1NNN"
  | .call _ => "2NNN"
  | .seByte _ _ => "3XNN"
  | .sneByte _ _ => "4XNN"
  | .seReg _ _ => "5XY0"
  | .ldByte _ _ => "6XNN"
  | .addByte _ _ => "7XNN"
  | .ldReg _ _ => "8XY0"
  | .orReg _ _ => "8XY1"
  | .andReg _ _ => "8XY2"
  | .xorReg _ _ => "8XY3"
  | .addReg _ _ => "8XY4"
  | .subReg _ _ => "8XY5"
  | .shr _ _ => "8XY6"
  | .subnReg _ _ => "8XY7"
  | .shl _ _ => "8XYE"
  | .sneReg _ _ => "9XY0"
  | .ldI _ => "ANNN"
  | .jpV0 _ => "BNNN"
  | .rnd _ _ => "CXNN"
  | .drw _ _ _ => "DXYN"
  | .skp _ => "EX9E"
  | .sknp _ => "EXA1"
  | .ldVxDt _ => "FX07"
  | .ldVxK _ => "FX0A"
  | .ldDtVx _ => "FX15"
  | .ldStVx _ => "FX18"
  | .addIVx _ => "FX1E"
  | .ldFVx _ => "FX29"
  | .ldBVx _ => "FX33"
  | .ldMemVx _ => "FX55"
  | .ldVxMem _ => "FX65"

/-- The assembler syntax of R96's mnemonic column (R105). -/
def Instr.syntaxOf : Instr → String
  | .cls => "CLS"
  | .ret => "RET"
  | .sys _ => "SYS addr"
  | .jp _ => "JP addr"
  | .call _ => "CALL addr"
  | .seByte _ _ => "SE Vx, byte"
  | .sneByte _ _ => "SNE Vx, byte"
  | .seReg _ _ => "SE Vx, Vy"
  | .ldByte _ _ => "LD Vx, byte"
  | .addByte _ _ => "ADD Vx, byte"
  | .ldReg _ _ => "LD Vx, Vy"
  | .orReg _ _ => "OR Vx, Vy"
  | .andReg _ _ => "AND Vx, Vy"
  | .xorReg _ _ => "XOR Vx, Vy"
  | .addReg _ _ => "ADD Vx, Vy"
  | .subReg _ _ => "SUB Vx, Vy"
  | .shr _ _ => "SHR Vx"
  | .subnReg _ _ => "SUBN Vx, Vy"
  | .shl _ _ => "SHL Vx"
  | .sneReg _ _ => "SNE Vx, Vy"
  | .ldI _ => "LD I, addr"
  | .jpV0 _ => "JP V0, addr"
  | .rnd _ _ => "RND Vx, byte"
  | .drw _ _ _ => "DRW Vx, Vy, nibble"
  | .skp _ => "SKP Vx"
  | .sknp _ => "SKNP Vx"
  | .ldVxDt _ => "LD Vx, DT"
  | .ldVxK _ => "LD Vx, K"
  | .ldDtVx _ => "LD DT, Vx"
  | .ldStVx _ => "LD ST, Vx"
  | .addIVx _ => "ADD I, Vx"
  | .ldFVx _ => "LD F, Vx"
  | .ldBVx _ => "LD B, Vx"
  | .ldMemVx _ => "LD [I], Vx"
  | .ldVxMem _ => "LD Vx, [I]"

end Sys2Proof
end

