-- ==== Sys2Proof/Decode.lean ====
section
/-! DEFINITION. From words to instructions and back (spec/30_encoding.md R90 to R107). Decoding is total on all 65536
words and reads nothing but the word (R94, R125). -/

namespace Sys2Proof

/-! ## Fields (R92) -/

/-- `op = opcode[15:12]`. -/
def opField (w : Word) : BitVec 4 := w.extractLsb' 12 4
/-- `X = opcode[11:8]`, as a register number. -/
def xField (w : Word) : Reg := (w.extractLsb' 8 4).toFin
/-- `Y = opcode[7:4]`, as a register number. -/
def yField (w : Word) : Reg := (w.extractLsb' 4 4).toFin
/-- `N = opcode[3:0]`. -/
def nField (w : Word) : BitVec 4 := w.extractLsb' 0 4
/-- `NN = opcode[7:0]`. -/
def nnField (w : Word) : Byte := w.extractLsb' 0 8
/-- `NNN = opcode[11:0]`. -/
def nnnField (w : Word) : BitVec 12 := w.extractLsb' 0 12

/-! ## Decoding (R94) -/

/-- Why bytes do not decode. -/
inductive DecodeError where
  /-- The word is none of the 35 forms (R101). Raised by `decode`; the machine turns it into the fault `IllegalOpcode`
  of R251, as the spec says. -/
  | illegalOpcode (w : Word)
  /-- Fewer than the two bytes every instruction has (R90). Raised by `decodeBytes` alone: the machine always fetches two
  bytes, so no step sees it (safe). -/
  | truncated
deriving DecidableEq, Repr

/-- What a decoder answers: an instruction, or a rejection by name. -/
abbrev Decoded := Except DecodeError Instr

/-- The `op = 8` group: `N` is the function (R98). -/
def decodeAlu (w : Word) : Decoded :=
  match nField w with
  | 0x0 => .ok (.ldReg (xField w) (yField w))
  | 0x1 => .ok (.orReg (xField w) (yField w))
  | 0x2 => .ok (.andReg (xField w) (yField w))
  | 0x3 => .ok (.xorReg (xField w) (yField w))
  | 0x4 => .ok (.addReg (xField w) (yField w))
  | 0x5 => .ok (.subReg (xField w) (yField w))
  | 0x6 => .ok (.shr (xField w) (yField w))
  | 0x7 => .ok (.subnReg (xField w) (yField w))
  | 0xE => .ok (.shl (xField w) (yField w))
  | _ => .error (.illegalOpcode w)

/-- The `op = 0xE` group: `NN` is the function and must match exactly (R100). -/
def decodeKey (w : Word) : Decoded :=
  match nnField w with
  | 0x9E => .ok (.skp (xField w))
  | 0xA1 => .ok (.sknp (xField w))
  | _ => .error (.illegalOpcode w)

/-- The `op = 0xF` group: `NN` is the function and must match exactly (R100). -/
def decodeMisc (w : Word) : Decoded :=
  match nnField w with
  | 0x07 => .ok (.ldVxDt (xField w))
  | 0x0A => .ok (.ldVxK (xField w))
  | 0x15 => .ok (.ldDtVx (xField w))
  | 0x18 => .ok (.ldStVx (xField w))
  | 0x1E => .ok (.addIVx (xField w))
  | 0x29 => .ok (.ldFVx (xField w))
  | 0x33 => .ok (.ldBVx (xField w))
  | 0x55 => .ok (.ldMemVx (xField w))
  | 0x65 => .ok (.ldVxMem (xField w))
  | _ => .error (.illegalOpcode w)

/-- R94's decoding algorithm: by `op` first, then by the function field of the group. The exact words `00E0` and `00EE`
come before the pattern `0NNN`; `5XYn` and `9XYn` need `n = 0` (R99). -/
def decode (w : Word) : Decoded :=
  match opField w with
  | 0x0 =>
    if w = 0x00E0 then .ok .cls
    else if w = 0x00EE then .ok .ret
    else .ok (.sys (nnnField w))
  | 0x1 => .ok (.jp (nnnField w))
  | 0x2 => .ok (.call (nnnField w))
  | 0x3 => .ok (.seByte (xField w) (nnField w))
  | 0x4 => .ok (.sneByte (xField w) (nnField w))
  | 0x5 => if nField w = 0 then .ok (.seReg (xField w) (yField w)) else .error (.illegalOpcode w)
  | 0x6 => .ok (.ldByte (xField w) (nnField w))
  | 0x7 => .ok (.addByte (xField w) (nnField w))
  | 0x8 => decodeAlu w
  | 0x9 => if nField w = 0 then .ok (.sneReg (xField w) (yField w)) else .error (.illegalOpcode w)
  | 0xA => .ok (.ldI (nnnField w))
  | 0xB => .ok (.jpV0 (nnnField w))
  | 0xC => .ok (.rnd (xField w) (nnField w))
  | 0xD => .ok (.drw (xField w) (yField w) (nField w))
  | 0xE => decodeKey w
  | _ => decodeMisc w   -- the one value left is 0xF

/-- Decoding bytes in the order memory holds them: the first byte is the high byte of the word (R62, R90). The bytes after
the instruction are given back. -/
def decodeBytes : List Byte → Except DecodeError (Instr × List Byte)
  | hi :: lo :: rest => (decode (hi ++ lo)).map (·, rest)
  | _ => .error .truncated

/-! ## Encoding (R91, R96) -/

/-- A register number as a 4-bit field. -/
def regBits (x : Reg) : BitVec 4 := BitVec.ofFin x
/-- Format `A`: `op`, then the 12-bit `NNN` (R91). -/
def wordA (op : BitVec 4) (nnn : BitVec 12) : Word := op ++ nnn
/-- Formats `XI` and `XF`: `op`, `X`, then the low byte, an immediate or a function (R91). -/
def wordXI (op : BitVec 4) (x : Reg) (nn : Byte) : Word := op ++ regBits x ++ nn
/-- Formats `XY` and `XYN`: `op`, `X`, `Y`, then the low nibble, a function or an immediate (R91). -/
def wordXYN (op : BitVec 4) (x y : Reg) (n : BitVec 4) : Word := op ++ regBits x ++ regBits y ++ n

/-- The word of an instruction, from the encoding column of R96. -/
def encode : Instr → Word
  | .cls => 0x00E0
  | .ret => 0x00EE
  | .sys nnn => wordA 0x0 nnn
  | .jp nnn => wordA 0x1 nnn
  | .call nnn => wordA 0x2 nnn
  | .seByte x nn => wordXI 0x3 x nn
  | .sneByte x nn => wordXI 0x4 x nn
  | .seReg x y => wordXYN 0x5 x y 0x0
  | .ldByte x nn => wordXI 0x6 x nn
  | .addByte x nn => wordXI 0x7 x nn
  | .ldReg x y => wordXYN 0x8 x y 0x0
  | .orReg x y => wordXYN 0x8 x y 0x1
  | .andReg x y => wordXYN 0x8 x y 0x2
  | .xorReg x y => wordXYN 0x8 x y 0x3
  | .addReg x y => wordXYN 0x8 x y 0x4
  | .subReg x y => wordXYN 0x8 x y 0x5
  | .shr x y => wordXYN 0x8 x y 0x6
  | .subnReg x y => wordXYN 0x8 x y 0x7
  | .shl x y => wordXYN 0x8 x y 0xE
  | .sneReg x y => wordXYN 0x9 x y 0x0
  | .ldI nnn => wordA 0xA nnn
  | .jpV0 nnn => wordA 0xB nnn
  | .rnd x nn => wordXI 0xC x nn
  | .drw x y n => wordXYN 0xD x y n
  | .skp x => wordXI 0xE x 0x9E
  | .sknp x => wordXI 0xE x 0xA1
  | .ldVxDt x => wordXI 0xF x 0x07
  | .ldVxK x => wordXI 0xF x 0x0A
  | .ldDtVx x => wordXI 0xF x 0x15
  | .ldStVx x => wordXI 0xF x 0x18
  | .addIVx x => wordXI 0xF x 0x1E
  | .ldFVx x => wordXI 0xF x 0x29
  | .ldBVx x => wordXI 0xF x 0x33
  | .ldMemVx x => wordXI 0xF x 0x55
  | .ldVxMem x => wordXI 0xF x 0x65

/-- The high byte of a word, which lies at the lower address (R62). -/
def hiByte (w : Word) : Byte := w.extractLsb' 8 8
/-- The low byte of a word. -/
def loByte (w : Word) : Byte := w.extractLsb' 0 8

/-- The two bytes of a word as memory holds them, high byte first (R62); R106's directive `DW`. -/
def wordBytes (w : Word) : List Byte := [hiByte w, loByte w]

/-- The bytes of an instruction as memory holds them. -/
def encodeBytes (i : Instr) : List Byte := wordBytes (encode i)

/-! ## The host's numbering -/

/-- The instruction the decoder reads from an instruction whose bits are `w`, bit 0 the least significant bit of its one
16-bit word (spec/opcode_table.json gives match and mask that way). `nbits` is the width the table gives, so every bit
above it is 0. The bytes are laid out as memory holds them and given to `decodeBytes`.
DEDUCED (notes/assumptions/14.md). -/
def decodeTableWord (nbits w : Nat) : Option Instr :=
  match decodeBytes (wordBytes (BitVec.ofNat 16 (w % 2 ^ nbits))) with
  | .ok (i, _) => some i
  | .error _ => none

end Sys2Proof
end

