-- ==== Sys2Proof/Config.lean ====
section
/-! DEFINITION. The size parameters of spec/00_scope.md R7, and the one free value of the machine: the bytes of the random
input (R9 `RNG`, R44). The parameter `FONT` is in Machine/Font.lean. -/

namespace Sys2Proof.Config

/-- `MEM_SIZE`: `memory` has 4096 cells, at addresses 0x000 to 0xFFF (R7, R60). -/
abbrev memSize : Nat := 4096

/-- `PROG_BASE`: where a ROM is loaded, and `pc` after a load (R7, R295). -/
abbrev progBase : Nat := 0x200

/-- `ROM_MAX`: the longest ROM that loads, `MEM_SIZE - PROG_BASE` (R7, R292). -/
abbrev romMax : Nat := memSize - progBase

/-- `STACK_DEPTH`: the call stack holds at most 16 entries (R7, R27). -/
abbrev stackDepth : Nat := 16

/-- `FB_W`: columns of the framebuffer (R7, R32). -/
abbrev fbWidth : Nat := 64

/-- `FB_H`: rows of the framebuffer (R7, R32). -/
abbrev fbHeight : Nat := 32

/-- `NKEYS`: key levels, indexed 0x0 to 0xF (R7, R43). -/
abbrev numKeys : Nat := 16

/-- `FONT_BASE`: the font table begins at address 0 (R7, R294). -/
abbrev fontBase : Nat := 0

/-- `GLYPH_BYTES`: bytes per glyph (R7, R294). -/
abbrev glyphBytes : Nat := 5

/-- `INSTR_BYTES`: every instruction is two bytes (R7, R90). -/
abbrev instrBytes : Nat := 2

/-- `RNG`: the `n`-th byte the random input delivers once the bytes waiting in `State.env.rndIn` are used up; a free
input under no law (R9, R44, R178). DESIGN CHOICE (notes/assumptions/3.md): no body, so nothing can be proved of a value. -/
opaque rndByte : Nat → Byte

end Sys2Proof.Config
end

