-- ==== Sys2Proof/Machine/Font.lean ====
section
/-! DEFINITION. The font table of spec/70_reset_and_hazards.md R294, the value of the parameter `FONT` of R9. -/

namespace Sys2Proof.Config

/-- Glyphs of the digits 0 to 3, from R294's table. -/
def font0 : List Byte :=
  [0xF0, 0x90, 0x90, 0x90, 0xF0,  0x20, 0x60, 0x20, 0x20, 0x70,
   0xF0, 0x10, 0xF0, 0x80, 0xF0,  0xF0, 0x10, 0xF0, 0x10, 0xF0]

/-- Glyphs of the digits 4 to 7, from R294's table. -/
def font4 : List Byte :=
  [0x90, 0x90, 0xF0, 0x10, 0x10,  0xF0, 0x80, 0xF0, 0x10, 0xF0,
   0xF0, 0x80, 0xF0, 0x90, 0xF0,  0xF0, 0x10, 0x20, 0x40, 0x40]

/-- Glyphs of the digits 8 to B, from R294's table. -/
def font8 : List Byte :=
  [0xF0, 0x90, 0xF0, 0x90, 0xF0,  0xF0, 0x90, 0xF0, 0x10, 0xF0,
   0xF0, 0x90, 0xF0, 0x90, 0x90,  0xE0, 0x90, 0xE0, 0x90, 0xE0]

/-- Glyphs of the digits C to F, from R294's table. -/
def fontC : List Byte :=
  [0xF0, 0x80, 0x80, 0x80, 0xF0,  0xE0, 0x90, 0x90, 0x90, 0xE0,
   0xF0, 0x80, 0xF0, 0x80, 0xF0,  0xF0, 0x80, 0xF0, 0x80, 0x80]

/-- `FONT`: the 80 bytes of the font table; the glyph of digit `d` is bytes `5d` to `5d + 4` (R294).
PRESUMED (notes/assumptions/5.md): the source lost the values, and R294 supplies this default "from general knowledge,
not in source". A statement that reads a byte of it depends on this table. -/
def font : List Byte := font0 ++ font4 ++ font8 ++ fontC

end Sys2Proof.Config
end

