-- ==== Sys2Proof/Machine/State.lean ====
section
/-! DEFINITION. What the machine holds (spec/10_state.md R20 to R38), what it can answer, why it can stop, the environment's
side of its ports, and the state after reset. Plain data only. -/

namespace Sys2Proof.Machine

/-- The fault record `(kind, info)` of the latch `fault` (R34), with exactly the four kinds of R250. Each is set by a
`Step` of the core, through the shared operation `raise`, and taking it is a NEXT state of the model (R256, R257); so no
step answers `Host.Outcome.fault` (notes/assumptions/9.md, safe). -/
inductive Fault where
  /-- The fetched word is none of the 35 forms; the info is the whole word (R251). Raised by `stepEvent` at dispatch. -/
  | illegalOpcode (opcode : Word)
  /-- `2NNN` with 16 entries on the stack (R252). Raised by `execCall`. -/
  | stackOverflow
  /-- `00EE` with an empty stack (R253). Raised by `execRet`. -/
  | stackUnderflow
  /-- An address above 0xFFF would be accessed; the info is the lowest such address (R64, R254). Raised by the fetch
  and by `execDrw`, `execLdBVx`, `execLdMemVx`, `execLdVxMem`. -/
  | memoryOutOfBounds (addr : Nat)
deriving DecidableEq, Repr

/-- Why the model would give no meaning. -/
inductive Refusal where
  /-- The instruction of that mnemonic has no meaning in this model. No arm of `exec` answers it: all 35 are modelled
  (safe, were it answered). -/
  | notModelled (mnemonic : String)
deriving DecidableEq, Repr

/-- The result a `Step` presents at the `result` port (R41, R133). -/
inductive StepResult where
  /-- `Continue`: an instruction was executed to completion. -/
  | continued
  /-- `Halted`: `pc >= program_end` at the start; normal, and re-evaluated at every `Step` (R122, R259). -/
  | halted
  /-- `Blocked`: `FX0A` found no key down (R134). -/
  | blocked
  /-- `Fault(kind, info)`: a fault was raised now or is latched (R256, R258). -/
  | fault (f : Fault)
deriving DecidableEq, Repr

/-- The result of a `Load` (R261, R290, R292). -/
inductive LoadResult where
  | ok
  /-- The ROM is longer than 3584 bytes: a refusal of the load, not a fault of the core (R255). -/
  | programTooLarge
deriving DecidableEq, Repr

/-- The events of the machine (R50, R53). -/
inductive Event where
  /-- One fetch-decode-execute cycle of the core (R120). -/
  | step
  /-- One 60 Hz timer tick (R240). -/
  | tick
  /-- The environment replaces the key vector (R53). -/
  | setKeys (keys : BitVec 16)
  /-- The renderer has consumed a frame (R54). -/
  | clearDirty
  /-- Reset and program load (R48, R290). -/
  | load (rom : List Byte)
deriving DecidableEq, Repr

/-- The environment's side of the ports (R40 to R46): not architectural state of the core (R20), but held as plain data so
that the step is one function of the state (notes/assumptions/2.md to 6.md). -/
structure Env where
  /-- The 16 key levels now presented, bit `k` is key `k`, 1 is down (R43, R53). -/
  keys : BitVec 16
  /-- The bytes waiting at the `rnd` input, the next one first (R44). -/
  rndIn : List Byte
  /-- How many bytes have been taken from `rnd` (R44). -/
  draws : Nat
  /-- The events the environment raises next, in order; when none is listed the next event is `Step` (R50, R52). -/
  schedule : List Event
  /-- What the `result` port last presented; `none` since the last successful `Load` (R41). -/
  result : Option StepResult
  /-- What the last `Load` answered (R290). -/
  loadResult : LoadResult
deriving DecidableEq, Repr

/-- `memory`: the bytes that differ from what an unlisted address reads as (`Memory.initial`), at strictly rising
addresses (`Memory.wf`). -/
abbrev Memory := List Host.Cell

/-- The framebuffer: 32 rows of 64 one-bit cells, row `y` is element `y`, column `x` is bit `x` of it (R32).
DESIGN CHOICE for the bit order inside a row (notes/assumptions/8.md). -/
abbrev Screen := Vector (BitVec 64) 32

/-- The state: R20's aggregate and `env`. `sp` is the length of `stack` (R27, R28; `State.sp`). -/
structure State where
  /-- `memory` (R31, R60). -/
  mem : Memory
  /-- `pc` (R23). -/
  pc : Word
  /-- `program_end` (R25). -/
  programEnd : Word
  /-- `V[0]` to `V[15]`; `VF` is `V[15]` (R21, R22). -/
  v : Vector Byte 16
  /-- `I` (R26). -/
  i : Word
  /-- The live stack entries, `stack[0]`, pushed first, at the head (R27). -/
  stack : List Word
  /-- `delay_timer` (R29). -/
  dt : Byte
  /-- `sound_timer` (R30). -/
  st : Byte
  /-- `fb` (R32). -/
  fb : Screen
  /-- `dirty` (R33). -/
  dirty : Bool
  /-- The fault latch (R34). -/
  fault : Option Fault
  /-- The environment's side of the ports. -/
  env : Env
deriving DecidableEq, Repr

/-- What a step or a meaning answers. -/
abbrev Out := Host.Outcome State Fault Refusal

/-- The environment right after reset: all keys up (R43, R291), nothing waiting, no event listed, nothing answered by a
`Step` yet. DESIGN CHOICE (notes/assumptions/2.md to 6.md). -/
def Env.reset : Env where
  keys := 0
  rndIn := []
  draws := 0
  schedule := []
  result := none
  loadResult := .ok

/-- The machine right after reset: R291's state for the empty ROM, the one load that names no program (R293).
DESIGN CHOICE for the ROM (notes/assumptions/1.md). -/
def State.reset : State where
  mem := []
  pc := 0x0200
  programEnd := 0x0200
  v := Vector.replicate 16 0
  i := 0
  stack := []
  dt := 0
  st := 0
  fb := Vector.replicate 32 0
  dirty := false
  fault := none
  env := Env.reset

end Sys2Proof.Machine
end

