-- ==== Sys2Proof/Machine/Ops.lean ====
section
/-! DEFINITION. The named operations over memory, registers, stack and ports, the range check, and taking a fault
(spec/20_memory.md, spec/10_state.md, spec/60_exceptions.md R256). -/

namespace Sys2Proof.Machine

/-! ## Memory (R60 to R77) -/

namespace Memory

/-- What an address that is not listed reads as: its content right after reset, the font table at 0x000 to 0x04F and 0
everywhere else (R68, R291). -/
def initial (a : Nat) : Byte := (Config.font[a - Config.fontBase]?).getD 0

/-- The byte at address `a`. Every use is behind the range check of R64, so `a` is at most 0xFFF. -/
def read : Memory → Nat → Byte
  | [], a => initial a
  | (k, b) :: rest, a => if k = a then b else read rest a

/-- List `(a, b)` in front of `m`, unless `b` is what an unlisted `a` reads as. -/
def cons (a : Nat) (b : Byte) (m : Memory) : Memory :=
  if b = initial a then m else (a, b) :: m

/-- Store `b` at address `a`, keeping the canonical form. -/
def write (a : Nat) (b : Byte) : Memory → Memory
  | [] => cons a b []
  | (k, c) :: rest =>
    if a < k then cons a b ((k, c) :: rest)
    else if a = k then cons a b rest
    else (k, c) :: write a b rest

/-- Store bytes at ascending addresses from `a` (R63, R191). -/
def writeBytes : Nat → List Byte → Memory → Memory
  | _, [], m => m
  | a, b :: bs, m => writeBytes (a + 1) bs (write a b m)

/-- The `n` bytes at `a`, `a + 1`, ... (R13 `MemRead`). -/
def readBytes (m : Memory) : Nat → Nat → List Byte
  | _, 0 => []
  | a, n + 1 => read m a :: readBytes m (a + 1) n

/-- The memory that holds `bs` from `a` and its reset content elsewhere (R290, R293). -/
def image : Nat → List Byte → Memory
  | _, [] => []
  | a, b :: bs => cons a b (image (a + 1) bs)

/-- The canonical form: addresses strictly rising and inside the 4096 cells, and no entry that repeats what an unlisted
address reads as. -/
abbrev wf (m : Memory) : Prop :=
  m.Pairwise (fun c d => c.1 < d.1) ∧ ∀ c ∈ m, c.1 < Config.memSize ∧ c.2 ≠ initial c.1

end Memory

/-! ## Registers and memory of a state -/

namespace State

/-- VF, register 15 (R22). -/
def vf : Reg := 15

/-- `V[x]` (R21). -/
def reg (s : State) (x : Reg) : Byte := s.v[x]

/-- `V[x] <- b` (R21). -/
def setReg (x : Reg) (b : Byte) (s : State) : State := { s with v := s.v.set x b }

/-- `V[0]` to `V[x]`, in order (R197). -/
def regsUpTo (s : State) (x : Reg) : List Byte := s.v.toList.take (x.val + 1)

/-- `V[k] <- memory[base + k]` for every `k` up to `x` (R198). -/
def loadRegs (base : Nat) (x : Reg) (s : State) : State :=
  { s with v := Vector.ofFn fun k : Reg => if k ≤ x then s.mem.read (base + k.val) else s.reg k }

/-- The byte at address `a`. -/
def byteAt (s : State) (a : Nat) : Byte := s.mem.read a

/-- The `n` bytes from address `a`. -/
def bytesAt (s : State) (a n : Nat) : List Byte := s.mem.readBytes a n

/-- Store bytes at ascending addresses from `a`. -/
def storeBytes (a : Nat) (bs : List Byte) (s : State) : State := { s with mem := s.mem.writeBytes a bs }

/-- `pc <- a`. -/
def setPc (a : Word) (s : State) : State := { s with pc := a }

/-- The fetch's advance: `pc <- pc + 2` (R124). -/
def advance (s : State) : State := s.setPc (s.pc + 2)

/-- A taken skip: `pc <- pc + 2` once more, on top of the fetch's (R151). -/
def skipIf (taken : Bool) (s : State) : State := if taken then s.setPc (s.pc + 2) else s

/-- `I <- a`. -/
def setI (a : Word) (s : State) : State := { s with i := a }

/-- `sp`, "always equals number of pushed frames" (R28). -/
def sp (s : State) : Nat := s.stack.length

/-- Push (R27). -/
def push (a : Word) (s : State) : State := { s with stack := s.stack ++ [a] }

/-- Replace the live stack entries. -/
def setStack (l : List Word) (s : State) : State := { s with stack := l }

/-- `DT <- b`. -/
def setDt (b : Byte) (s : State) : State := { s with dt := b }

/-- `ST <- b`. -/
def setSt (b : Byte) (s : State) : State := { s with st := b }

/-- A new framebuffer, marked dirty: what `00E0` and `DXYN` do (R33). -/
def setScreen (fb : Screen) (s : State) : State := { s with fb := fb, dirty := true }

/-- `dirty <- 0` (R54). -/
def cleanDirty (s : State) : State := { s with dirty := false }

/-- Set the fault latch (R34). -/
def latch (f : Fault) (s : State) : State := { s with fault := some f }

/-- Present a result at the `result` port (R41). -/
def reply (r : StepResult) (s : State) : State := { s with env := { s.env with result := some r } }

/-- Replace what is left of the environment's schedule. -/
def setSchedule (l : List Event) (s : State) : State := { s with env := { s.env with schedule := l } }

/-- `return Continue` (R13). -/
def done (s : State) : Out := .next (s.reply .continued)

/-! ## The random input (R44) -/

/-- The byte `rnd()` gives now: the first one waiting, else the free byte numbered by `draws`.
DESIGN CHOICE (notes/assumptions/3.md). -/
def rndByte (s : State) : Byte :=
  match s.env.rndIn with
  | b :: _ => b
  | [] => Config.rndByte s.env.draws

/-- `rnd()` consumes exactly one byte (R44, R178). -/
def rndTaken (s : State) : State :=
  { s with env := { s.env with rndIn := s.env.rndIn.tail, draws := s.env.draws + 1 } }

end State

/-! ## Faults (R250 to R258) -/

/-- TAKING A FAULT, the one shared operation: the latch is set and the `Step` answers `Fault`; nothing else changes,
nothing is saved, control goes nowhere (R256). `pc` is what the fetch left (R257), and there is no return from a fault
but `Load` (R264). -/
def raise (f : Fault) (s : State) : Out := .next ((s.latch f).reply (.fault f))

/-- The range check of an access to `count` bytes from `base`: done for the whole instruction before any effect, on
unbounded integers; the info is the lowest address above 0xFFF (R64, R76, R77, R254). -/
def rangeFault (base count : Nat) : Option Fault :=
  if 1 ≤ count ∧ Config.memSize ≤ base + count - 1 then some (.memoryOutOfBounds (max base Config.memSize)) else none

/-- Go on with `go` if `count` bytes from `base` exist, else take the fault (R77). -/
def guardRange (base count : Nat) (s : State) (go : Out) : Out :=
  match rangeFault base count with
  | some f => raise f s
  | none => go

end Sys2Proof.Machine
end

