-- ==== Sys2Proof/Machine/Flags.lean ====
section
/-! DEFINITION. The flag computations: the values the flag-writing forms put into VF (spec/10_state.md R22,
spec/42_alu.md R161). Each is computed from the exact operands, never from a truncated result, and is 0x00 or 0x01. -/

namespace Sys2Proof.Machine

/-- A flag value is exactly 0x00 or 0x01 (R22). -/
def flagByte (b : Bool) : Byte := if b then 1 else 0

/-- `8XY4`: 1 if the exact sum is above 255 (R172). -/
def carryFlag (vx vy : Byte) : Byte := flagByte (decide (vx.toNat + vy.toNat > 255))

/-- `8XY5`, `8XY7`: 1 if the minuend is at least the subtrahend, equality included (R173, R175). -/
def noBorrowFlag (minuend subtrahend : Byte) : Byte := flagByte (decide (minuend.toNat ≥ subtrahend.toNat))

/-- `8XY6`: bit 0, the bit shifted out to the right (R174). -/
def lowBitFlag (vx : Byte) : Byte := flagByte (vx.getLsbD 0)

/-- `8XYE`: bit 7, the bit shifted out to the left (R176). -/
def highBitFlag (vx : Byte) : Byte := flagByte (vx.getLsbD 7)

/-- `DXYN`: 1 if a sprite bit landed on a lit pixel (R215). -/
def collisionFlag (hit : Bool) : Byte := flagByte hit

end Sys2Proof.Machine
end

