-- ==== Sys2Proof/Machine/Alu.lean ====
section
/-! DEFINITION. Register, arithmetic, logic and random instructions (spec/42_alu.md R160 to R179). Sources are sampled
before any write, and writes happen in the order of the rule, the later one winning (R14, R160). DESIGN CHOICE of the
parameter VF_ALIAS: `sampled`, the spec's default (notes/assumptions/10.md). -/

namespace Sys2Proof.Machine

/-- `6XNN` (R165). -/
def execLdByte (x : Reg) (nn : Byte) (s : State) : Out := (s.setReg x nn).done

/-- `7XNN`: modulo 256, no carry recorded (R166). -/
def execAddByte (x : Reg) (nn : Byte) (s : State) : Out := (s.setReg x (s.reg x + nn)).done

/-- `8XY0` (R167). -/
def execLdReg (x y : Reg) (s : State) : Out := (s.setReg x (s.reg y)).done

/-- `8XY1`: VF untouched (R168). -/
def execOrReg (x y : Reg) (s : State) : Out := (s.setReg x (s.reg x ||| s.reg y)).done

/-- `8XY2`: VF untouched (R169). -/
def execAndReg (x y : Reg) (s : State) : Out := (s.setReg x (s.reg x &&& s.reg y)).done

/-- `8XY3`: VF untouched (R170). -/
def execXorReg (x y : Reg) (s : State) : Out := (s.setReg x (s.reg x ^^^ s.reg y)).done

/-- `8XY4`: the sum, then the carry into VF, which is written last (R172). -/
def execAddReg (x y : Reg) (s : State) : Out :=
  ((s.setReg x (s.reg x + s.reg y)).setReg State.vf (carryFlag (s.reg x) (s.reg y))).done

/-- `8XY5`: the no-borrow flag into VF, then the difference (R173). -/
def execSubReg (x y : Reg) (s : State) : Out :=
  ((s.setReg State.vf (noBorrowFlag (s.reg x) (s.reg y))).setReg x (s.reg x - s.reg y)).done

/-- `8XY6`: bit 0 into VF, then `V[X]` shifted right in place; `V[Y]` is not read (R174). -/
def execShr (x _y : Reg) (s : State) : Out :=
  ((s.setReg State.vf (lowBitFlag (s.reg x))).setReg x (s.reg x >>> 1)).done

/-- `8XY7`: the no-borrow flag into VF, then the reverse difference (R175). -/
def execSubnReg (x y : Reg) (s : State) : Out :=
  ((s.setReg State.vf (noBorrowFlag (s.reg y) (s.reg x))).setReg x (s.reg y - s.reg x)).done

/-- `8XYE`: bit 7 into VF, then `V[X]` shifted left in place; `V[Y]` is not read (R176). -/
def execShl (x _y : Reg) (s : State) : Out :=
  ((s.setReg State.vf (highBitFlag (s.reg x))).setReg x (s.reg x <<< 1)).done

/-- `CXNN`: one random byte, masked (R178). -/
def execRnd (x : Reg) (nn : Byte) (s : State) : Out := (s.rndTaken.setReg x (s.rndByte &&& nn)).done

end Sys2Proof.Machine
end

