-- ==== Sys2Proof/Machine/Operands.lean ====
section
/-! DEFINITION. The operand forms: what the instructions compute from their fields and registers before they act
(spec/30_encoding.md R93, spec/43_index_memory.md R190, spec/44_display.md R210 and R211). -/

namespace Sys2Proof.Machine

/-- An address field `NNN`, zero-extended (R93). -/
def addrOf (nnn : BitVec 12) : Word := nnn.setWidth 16

/-- `BNNN`'s target, `NNN + V[0]`, not reduced modulo 4096 (R146). -/
def offsetTarget (nnn : BitVec 12) (v0 : Byte) : Word := addrOf nnn + v0.setWidth 16

/-- `FX1E`'s sum, modulo 65536 (R194). -/
def indexSum (i : Word) (vx : Byte) : Word := i + vx.setWidth 16

/-- `FX29`'s glyph address: the whole byte times 5, not masked (R195). -/
def glyphAddr (vx : Byte) : Word := BitVec.ofNat 16 (Config.fontBase + vx.toNat * Config.glyphBytes)

/-- `FX33`'s three decimal digits, hundreds first, one binary byte each (R196). -/
def decimalDigits (vx : Byte) : List Byte :=
  [BitVec.ofNat 8 (vx.toNat / 100), BitVec.ofNat 8 (vx.toNat / 10 % 10), BitVec.ofNat 8 (vx.toNat % 10)]

/-- The level of the key a register names: the high nibble is ignored (R232). -/
def keyDown (keys : BitVec 16) (vx : Byte) : Bool := keys.getLsbD (vx.toNat % Config.numKeys)

/-- The least key that is down (R236). -/
def firstKey (keys : BitVec 16) : Option Nat := (List.range Config.numKeys).find? fun k => keys.getLsbD k

/-! ## The drawing engine (R210, R211, R215) -/

/-- One pixel; both coordinates wrap (R210). -/
def Screen.pixel (fb : Screen) (y x : Nat) : Bool :=
  (fb[y % Config.fbHeight]'(Nat.mod_lt _ (by decide))).getLsbD (x % Config.fbWidth)

/-- `fb[y][x] <- fb[y][x] ^ 1`; both coordinates wrap. -/
def Screen.flip (fb : Screen) (y x : Nat) : Screen :=
  fb.set (y % Config.fbHeight)
    (fb[y % Config.fbHeight]'(Nat.mod_lt _ (by decide)) ^^^ BitVec.twoPow 64 (x % Config.fbWidth))
    (Nat.mod_lt _ (by decide))

/-- What the drawing engine carries from pixel to pixel: the framebuffer, and whether a collision has happened. -/
structure Canvas where
  fb : Screen
  hit : Bool
deriving DecidableEq, Repr

/-- One sprite bit: a bit that is 1 tests its target pixel for a collision and flips it; a bit that is 0 does nothing. -/
def drawBit (y x : Nat) (lit : Bool) (c : Canvas) : Canvas :=
  if lit then { fb := Screen.flip c.fb y x, hit := c.hit || Screen.pixel c.fb y x } else c

/-- One sprite row: 8 bits, most significant first, at columns `x0`, `x0 + 1`, ... (R211, R215). -/
def drawRow (y x0 : Nat) (b : Byte) (c : Canvas) : Canvas :=
  (List.range 8).foldl (fun c col => drawBit y (x0 + col) (b.getLsbD (7 - col)) c) c

/-- The sprite rows at rows `y0`, `y0 + 1`, ... (R215). -/
def drawRows (x0 : Nat) : Nat → List Byte → Canvas → Canvas
  | _, [], c => c
  | y, b :: bs, c => drawRows x0 (y + 1) bs (drawRow y x0 b c)

end Sys2Proof.Machine
end

