-- ==== Sys2Proof/Machine/Display.lean ====
section
/-! DEFINITION. Display instructions and the sprite XOR-drawing engine (spec/44_display.md R210 to R218). -/

namespace Sys2Proof.Machine

/-- `00E0`: all 2048 pixels 0, `dirty` set (R212). -/
def execCls (s : State) : Out := (s.setScreen (Vector.replicate 32 0)).done

/-- Draw the sprite of `n` rows at `I` with its top left corner at column `x0`, row `y0`: the framebuffer XORed, VF the
collision flag, `dirty` set whether or not a pixel changed (R215). -/
def State.drawSprite (x0 y0 n : Nat) (s : State) : State :=
  let c := drawRows x0 y0 (s.bytesAt s.i.toNat n) { fb := s.fb, hit := false }
  (s.setScreen c.fb).setReg State.vf (collisionFlag c.hit)

/-- `DXYN`: the coordinates are taken before VF is written; `N = 0` reads no memory (R215). -/
def execDrw (x y : Reg) (n : BitVec 4) (s : State) : Out :=
  guardRange s.i.toNat n.toNat s
    (s.drawSprite ((s.reg x).toNat % Config.fbWidth) ((s.reg y).toNat % Config.fbHeight) n.toNat).done

end Sys2Proof.Machine
end

