-- ==== Sys2Proof/Machine/Flow.lean ====
section
/-! DEFINITION. Control flow (spec/41_flow.md R140 to R153). On entry `pc` already holds the address of the instruction
plus 2 (R124). -/

namespace Sys2Proof.Machine

/-- `00EE` (R140). -/
def execRet (s : State) : Out :=
  match s.stack.getLast? with
  | none => raise .stackUnderflow s
  | some a => ((s.setStack s.stack.dropLast).setPc a).done

/-- `0NNN`: a no-operation; `NNN` is ignored (R142). -/
def execSys (_nnn : BitVec 12) (s : State) : Out := s.done

/-- `1NNN` (R143). -/
def execJp (nnn : BitVec 12) (s : State) : Out := (s.setPc (addrOf nnn)).done

/-- `2NNN`: pushes the advanced `pc` (R144). DEDUCED: a stack longer than 16, which no run reaches, also overflows
(notes/assumptions/12.md). -/
def execCall (nnn : BitVec 12) (s : State) : Out :=
  if s.sp ≥ Config.stackDepth then raise .stackOverflow s else ((s.push s.pc).setPc (addrOf nnn)).done

/-- `BNNN`: the offset register is always `V[0]` (R146). -/
def execJpV0 (nnn : BitVec 12) (s : State) : Out := (s.setPc (offsetTarget nnn (s.reg 0))).done

/-- `3XNN` (R147). -/
def execSeByte (x : Reg) (nn : Byte) (s : State) : Out := (s.skipIf (s.reg x == nn)).done

/-- `4XNN` (R148). -/
def execSneByte (x : Reg) (nn : Byte) (s : State) : Out := (s.skipIf (s.reg x != nn)).done

/-- `5XY0` (R149). -/
def execSeReg (x y : Reg) (s : State) : Out := (s.skipIf (s.reg x == s.reg y)).done

/-- `9XY0` (R150). -/
def execSneReg (x y : Reg) (s : State) : Out := (s.skipIf (s.reg x != s.reg y)).done

end Sys2Proof.Machine
end

