-- ==== Sys2Proof/Machine/IndexMemory.lean ====
section
/-! DEFINITION. Index register and memory instructions (spec/43_index_memory.md R190 to R198). `I` is never modified by an
access, and the range check precedes every effect (R77, R190). -/

namespace Sys2Proof.Machine

/-- `ANNN` (R192). -/
def execLdI (nnn : BitVec 12) (s : State) : Out := (s.setI (addrOf nnn)).done

/-- `FX1E`: a 16-bit sum, VF untouched (R194). -/
def execAddIVx (x : Reg) (s : State) : Out := (s.setI (indexSum s.i (s.reg x))).done

/-- `FX29` (R195). -/
def execLdFVx (x : Reg) (s : State) : Out := (s.setI (glyphAddr (s.reg x))).done

/-- `FX33` (R196). -/
def execLdBVx (x : Reg) (s : State) : Out :=
  guardRange s.i.toNat 3 s (s.storeBytes s.i.toNat (decimalDigits (s.reg x))).done

/-- `FX55` (R197). -/
def execLdMemVx (x : Reg) (s : State) : Out :=
  guardRange s.i.toNat (x.val + 1) s (s.storeBytes s.i.toNat (s.regsUpTo x)).done

/-- `FX65` (R198). -/
def execLdVxMem (x : Reg) (s : State) : Out :=
  guardRange s.i.toNat (x.val + 1) s (s.loadRegs s.i.toNat x).done

end Sys2Proof.Machine
end

