-- ==== Sys2Proof/Machine/TimersKeys.lean ====
section
/-! DEFINITION. Timer and key instructions (spec/45_timers_keys.md R232 to R238). The key vector is the one the environment
presents at this `Step` (R43). -/

namespace Sys2Proof.Machine

/-- `EX9E` (R232). -/
def execSkp (x : Reg) (s : State) : Out := (s.skipIf (keyDown s.env.keys (s.reg x))).done

/-- `EXA1` (R233). -/
def execSknp (x : Reg) (s : State) : Out := (s.skipIf (!keyDown s.env.keys (s.reg x))).done

/-- `FX07` (R234). -/
def execLdVxDt (x : Reg) (s : State) : Out := (s.setReg x s.dt).done

/-- `FX0A`: with no key down `pc` is rewound and the `Step` answers `Blocked`; else the least key that is down goes into
`V[X]` (R236). -/
def execLdVxK (x : Reg) (s : State) : Out :=
  match firstKey s.env.keys with
  | none => .next ((s.setPc (s.pc - 2)).reply .blocked)
  | some k => (s.setReg x (BitVec.ofNat 8 k)).done

/-- `FX15` (R237). -/
def execLdDtVx (x : Reg) (s : State) : Out := (s.setDt (s.reg x)).done

/-- `FX18` (R238). -/
def execLdStVx (x : Reg) (s : State) : Out := (s.setSt (s.reg x)).done

end Sys2Proof.Machine
end

