-- ==== Sys2Proof/Machine/Events.lean ====
section
/-! DEFINITION. The environment's events (spec/10_state.md R50 to R54, spec/45_timers_keys.md R240, spec/70_reset_and_hazards.md
R290 to R296). Each acts the same in every status of the core (R54, R241, R296). -/

namespace Sys2Proof.Machine.State

/-- One timer tick toward 0, a no-op at 0 (R240). -/
def countDown (b : Byte) : Byte := if b = 0 then 0 else b - 1

/-- `Tick`: each timer is lowered by 1 if it is not 0; nothing else is touched, nothing is answered (R240, R241). -/
def tick (s : State) : State := (s.setDt (countDown s.dt)).setSt (countDown s.st)

/-- `SetKeys(k)`: replaces the environment's key vector (R53). -/
def setKeys (keys : BitVec 16) (s : State) : State := { s with env := { s.env with keys := keys } }

/-- A `Load` answers (R290). -/
def replyLoad (r : LoadResult) (s : State) : State := { s with env := { s.env with loadResult := r } }

/-- `Load(rom)`: the only reset (R290 to R293). A ROM of more than 3584 bytes is refused and nothing changes (R292);
otherwise every piece of state takes its reset value, the font and the ROM are in `memory`, and nothing of the earlier
run survives (R296). The environment's own data stay: its keys, its random bytes and its schedule
(DESIGN CHOICE, notes/assumptions/6.md). -/
def load (rom : List Byte) (s : State) : State :=
  if rom.length > Config.romMax then s.replyLoad .programTooLarge
  else
    { State.reset with
      mem := Memory.image Config.progBase rom
      programEnd := BitVec.ofNat 16 (Config.progBase + rom.length)
      env := { s.env with result := none, loadResult := .ok } }

end Sys2Proof.Machine.State
end

