-- ==== Sys2Proof/Machine/Cycle.lean ====
section
/-! DEFINITION. The `Step` event (spec/40_step_cycle.md R120 to R135), and which event comes next. -/

namespace Sys2Proof.Machine

/-- The word at `pc`, big-endian: the byte at `pc` is the high byte (R62, R123). -/
def State.fetchWord (s : State) : Word := s.byteAt s.pc.toNat ++ s.byteAt (s.pc.toNat + 1)

/-- Fetch, advance, decode, dispatch (R120 steps 3 to 8). The range check of the fetch comes before `pc` moves (R123); an
illegal word faults after it has (R126). -/
def fetchExec (s : State) : Out :=
  guardRange s.pc.toNat Config.instrBytes s
    (match decode s.fetchWord with
      | .ok i => exec i s.advance
      | .error _ => raise (.illegalOpcode s.fetchWord) s.advance)

/-- The event `Step` (R120): first the fault latch (R121), then the halt check (R122), then one instruction. -/
def stepEvent (s : State) : Out :=
  match s.fault with
  | some f => .next (s.reply (.fault f))
  | none => if s.programEnd ≤ s.pc then .next (s.reply .halted) else fetchExec s

/-- One event (R50). -/
def runEvent (e : Event) (s : State) : Out :=
  match e with
  | .step => stepEvent s
  | .tick => .next s.tick
  | .setKeys keys => .next (s.setKeys keys)
  | .clearDirty => .next s.cleanDirty
  | .load rom => .next (s.load rom)

/-- The next event the environment raises: the first of its schedule, which is thereby used up; when none is listed, a
`Step` (R52). DESIGN CHOICE (notes/assumptions/2.md). -/
def nextEvent (s : State) : Out :=
  match s.env.schedule with
  | [] => stepEvent s
  | e :: rest => runEvent e (s.setSchedule rest)

/-- Where an instruction word has to lie to be fetched next: `pc`, or 0x200 where `pc` has no two bytes of memory. -/
def State.fetchAddr (s : State) : Nat :=
  if s.pc.toNat + Config.instrBytes ≤ Config.memSize then s.pc.toNat else Config.progBase

/-- A state ready to fetch the two bytes `bs` next: they lie at `fetchAddr`, below `program_end`, no fault is latched and
no other event comes first. -/
def State.withFetchBytes (bs : List Byte) (s : State) : State :=
  let a := s.fetchAddr
  { s with
    mem := s.mem.writeBytes a bs
    pc := BitVec.ofNat 16 a
    programEnd := if a < s.programEnd.toNat then s.programEnd else BitVec.ofNat 16 (a + Config.instrBytes)
    fault := none
    env := { s.env with schedule := [] } }

end Sys2Proof.Machine
end

