-- ==== Sys2Proof/Machine/Step.lean ====
section
/-! DEFINITION. One step of the machine: the next event of the environment's schedule, a `Step` of the core when none is
listed (`nextEvent` in Machine/Cycle.lean). -/

namespace Sys2Proof.Machine

/-- One event of the machine (spec/10_state.md R50, R51). -/
def step (s : State) : Host.Outcome State Fault Refusal := nextEvent s

/-- `s` with the one-word instruction `w` where the next `Step` fetches it; it stands for the load of a program
(notes/assumptions/1.md). Bits above `nbits` are 0. -/
def State.withFetchWord (s : State) (nbits w : Nat) : State :=
  s.withFetchBytes (wordBytes (BitVec.ofNat 16 (w % 2 ^ nbits)))

end Sys2Proof.Machine
end

