-- ==== Sys2Proof/Machine/Ports.lean ====
section
/-! DEFINITION. What the environment reads at the ports between events (spec/10_state.md R41 to R46), and the numeric codes
spec/60_exceptions.md R261 offers. No rule of the core depends on the codes. -/

namespace Sys2Proof.Machine

/-- `sound_on`: 1 exactly when `ST` is not 0 (R46). -/
def State.soundOn (s : State) : Bool := s.st != 0

/-- The `fb` port: pixel `fb[y][x]`, row `y`, column `x` (R45). -/
def State.pixel (s : State) (y : Fin 32) (x : Fin 64) : Bool := Screen.pixel s.fb y.val x.val

/-- The linear order of the pixels where one is needed (R45). -/
def pixelIndex (y : Fin 32) (x : Fin 64) : Nat := y.val * Config.fbWidth + x.val

/-- The 2048 pixels in that linear order. -/
def State.pixels (s : State) : List Bool :=
  (List.range (Config.fbHeight * Config.fbWidth)).map fun k => Screen.pixel s.fb (k / Config.fbWidth) k

/-- R261: fault kinds. -/
def Fault.code : Fault → Nat
  | .illegalOpcode _ => 1
  | .stackOverflow => 2
  | .stackUnderflow => 3
  | .memoryOutOfBounds _ => 4

/-- R261: results of a `Step`. -/
def StepResult.code : StepResult → Nat
  | .continued => 0
  | .halted => 1
  | .blocked => 2
  | .fault _ => 3

/-- R261: results of a `Load`. -/
def LoadResult.code : LoadResult → Nat
  | .ok => 0
  | .programTooLarge => 1

/-- The core is waiting for a key: no fault, not halted, the word at `pc` is an `FX0A`, no key is down (R243). It is a
function of the state and the key input, not a state of its own (R36). -/
def State.waiting (s : State) : Bool :=
  s.fault.isNone && decide (s.pc < s.programEnd) && decide (s.pc.toNat + 1 < Config.memSize) &&
    (match decode s.fetchWord with
      | .ok (.ldVxK _) => true
      | _ => false) && s.env.keys == 0

/-- A run has ended: a `Step` would answer `Halted` or `Fault` without an instruction (R19). -/
def State.ended (s : State) : Bool := s.fault.isSome || decide (s.programEnd ≤ s.pc)

end Sys2Proof.Machine
end

