-- ==== Sys2Proof/Safety.lean ====
section
/-! DEFINITION. The words the statements use: the invariant of the machine, what some event can lead to, and what a step
leaves alone. -/

namespace Sys2Proof.Machine

/-! ## The invariant -/

/-- A fault record the core can latch: an illegal word is one that does not decode (R101, R251), and an address is in
0x1000 to 0xFFFF (R254). -/
def Fault.legal : Fault → Prop
  | .illegalOpcode w => decode w = .error (.illegalOpcode w)
  | .stackOverflow => True
  | .stackUnderflow => True
  | .memoryOutOfBounds a => 0x1000 ≤ a ∧ a ≤ 0xFFFF

/-- What holds of every state a run reaches: `memory` is in its canonical form, the stack holds at most 16 entries (R27),
each at most 0x1001 (R24), `pc` is at most 0x10FE (R24), `program_end` is between 0x200 and 0x1000 (R25), and a latched
fault is one the core can raise (R250). -/
structure Inv (s : State) : Prop where
  mem_wf : s.mem.wf
  sp_le : s.sp ≤ 16
  stack_le : ∀ a ∈ s.stack, a.toNat ≤ 0x1001
  pc_le : s.pc.toNat ≤ 0x10FE
  programEnd_ge : 0x200 ≤ s.programEnd.toNat
  programEnd_le : s.programEnd.toNat ≤ 0x1000
  fault_legal : ∀ f, s.fault = some f → f.legal

/-- The states some sequence of events leads to from reset, whatever the environment's schedule, keys and random bytes
(R50, R52). -/
inductive Reachable : State → Prop
  | reset : Reachable State.reset
  | event {s t : State} (e : Event) : Reachable s → runEvent e s = .next t → Reachable t
  | environment {s : State} (env : Env) : Reachable s → Reachable { s with env := env }

/-! ## Readiness and results -/

/-- A `Step` fetches: no fault is latched, `pc` is below `program_end`, and both bytes exist (R121, R122, R123). -/
def State.fetches (s : State) : Prop :=
  s.fault = none ∧ s.pc.toNat < s.programEnd.toNat ∧ s.pc.toNat + 1 ≤ 0xFFF

/-- A `Step` dispatches the instruction `i` (R126). -/
def State.dispatches (s : State) (i : Instr) : Prop := s.fetches ∧ decode s.fetchWord = .ok i

/-- `s` with the fault `f` taken and nothing else changed: the latch set, the result port presenting it (R256). -/
def State.faulted (s : State) (f : Fault) : State :=
  { s with fault := some f, env := { s.env with result := some (.fault f) } }

/-- `s` with `r` presented at the result port and nothing else changed. -/
def State.answered (s : State) (r : StepResult) : State := { s with env := { s.env with result := some r } }

/-- The instruction was executed to completion: the result port presents `Continue` (R133). -/
def Completed (t : State) : Prop := t.env.result = some .continued

/-! ## Frames: what an instruction leaves unchanged -/

/-- The pieces of state an instruction form can write (R20, R37), and the random input it can consume from. -/
inductive Piece where
  | memory | pc | regs | index | stack | dt | st | pixels | dirty | random
deriving DecidableEq, Repr

/-- Every byte of memory reads as before. -/
def SameMemory (s t : State) : Prop := ∀ a, t.byteAt a = s.byteAt a

/-- Every byte of memory but the `n` bytes from `base` reads as before. -/
def SameMemoryOutside (base n : Nat) (s t : State) : Prop := ∀ a, ¬(base ≤ a ∧ a < base + n) → t.byteAt a = s.byteAt a

/-- Every general register but those listed is unchanged. -/
def SameRegsBut (l : List Reg) (s t : State) : Prop := ∀ r, r ∉ l → t.reg r = s.reg r

/-- THE FRAME: everything R20 lists is unchanged but the pieces in `p`. `program_end`, the fault latch, the key vector, the
schedule and the answer of the last `Load` are unchanged in any case. -/
structure SameBut (p : List Piece) (s t : State) : Prop where
  memory : Piece.memory ∉ p → SameMemory s t
  pc : Piece.pc ∉ p → t.pc = s.pc
  programEnd : t.programEnd = s.programEnd
  regs : Piece.regs ∉ p → SameRegsBut [] s t
  index : Piece.index ∉ p → t.i = s.i
  stack : Piece.stack ∉ p → t.stack = s.stack
  dt : Piece.dt ∉ p → t.dt = s.dt
  st : Piece.st ∉ p → t.st = s.st
  pixels : Piece.pixels ∉ p → ∀ y x, t.pixel y x = s.pixel y x
  dirty : Piece.dirty ∉ p → t.dirty = s.dirty
  fault : t.fault = s.fault
  keys : t.env.keys = s.env.keys
  random : Piece.random ∉ p → t.env.rndIn = s.env.rndIn ∧ t.env.draws = s.env.draws
  schedule : t.env.schedule = s.env.schedule
  loadResult : t.env.loadResult = s.env.loadResult

/-! ## Which instruction writes which state (R37) -/

/-- The pieces of state the form writes, by R37's table; `CXNN` also consumes from the random input. -/
def writes : Instr → List Piece
  | .cls => [.pixels, .dirty]
  | .ret => [.stack, .pc]
  | .sys _ => []
  | .jp _ => [.pc]
  | .call _ => [.stack, .pc]
  | .seByte _ _ | .sneByte _ _ | .seReg _ _ | .sneReg _ _ | .skp _ | .sknp _ => [.pc]
  | .ldByte _ _ | .addByte _ _ | .ldReg _ _ | .orReg _ _ | .andReg _ _ | .xorReg _ _ => [.regs]
  | .addReg _ _ | .subReg _ _ | .shr _ _ | .subnReg _ _ | .shl _ _ => [.regs]
  | .ldI _ => [.index]
  | .jpV0 _ => [.pc]
  | .rnd _ _ => [.regs, .random]
  | .drw _ _ _ => [.regs, .pixels, .dirty]
  | .ldVxDt _ => [.regs]
  | .ldVxK _ => [.regs, .pc]
  | .ldDtVx _ => [.dt]
  | .ldStVx _ => [.st]
  | .addIVx _ | .ldFVx _ => [.index]
  | .ldBVx _ | .ldMemVx _ => [.memory]
  | .ldVxMem _ => [.regs]

/-- The general registers the form writes, by R37's table. -/
def writtenRegs : Instr → List Reg
  | .ldByte x _ | .addByte x _ | .ldReg x _ | .orReg x _ | .andReg x _ | .xorReg x _ | .rnd x _ => [x]
  | .addReg x _ | .subReg x _ | .shr x _ | .subnReg x _ | .shl x _ => [x, 15]
  | .drw _ _ _ => [15]
  | .ldVxDt x | .ldVxK x => [x]
  | .ldVxMem x => (List.finRange 16).filter fun k => k ≤ x
  | .cls | .ret | .sys _ | .jp _ | .call _ | .seByte _ _ | .sneByte _ _ | .seReg _ _ | .sneReg _ _ | .ldI _ | .jpV0 _
  | .skp _ | .sknp _ | .ldDtVx _ | .ldStVx _ | .addIVx _ | .ldFVx _ | .ldBVx _ | .ldMemVx _ => []

/-- How many bytes of `memory` from `I` the form writes, by R37's table. -/
def writtenBytes : Instr → Nat
  | .ldBVx _ => 3
  | .ldMemVx x => x.val + 1
  | .cls | .ret | .sys _ | .jp _ | .call _ | .seByte _ _ | .sneByte _ _ | .seReg _ _ | .sneReg _ _ | .ldI _ | .jpV0 _
  | .skp _ | .sknp _ | .ldDtVx _ | .ldStVx _ | .addIVx _ | .ldFVx _ | .ldByte _ _ | .addByte _ _ | .ldReg _ _
  | .orReg _ _ | .andReg _ _ | .xorReg _ _ | .rnd _ _ | .addReg _ _ | .subReg _ _ | .shr _ _ | .subnReg _ _ | .shl _ _
  | .drw _ _ _ | .ldVxDt _ | .ldVxK _ | .ldVxMem _ => 0

/-! ## Sprites -/

/-- A sprite of `n` rows at `I`, drawn with its top left corner at column `x0` and row `y0`, has a bit that is 1 on pixel
`(y, x)`: bit `7 - col` of byte `row`, where both coordinates wrap (R211, R215). -/
def State.spriteLights (s : State) (x0 y0 n : Nat) (y : Fin 32) (x : Fin 64) : Prop :=
  ∃ row, row < n ∧ ∃ col, col < 8 ∧ (s.byteAt (s.i.toNat + row)).getLsbD (7 - col) = true ∧
    (y0 + row) % 32 = y.val ∧ (x0 + col) % 64 = x.val

/-! ## Sequences of calls -/

/-- `2NNN` executed for each target in turn. -/
def callAll : List (BitVec 12) → State → Out
  | [], s => .next s
  | n :: ns, s =>
    match exec (.call n) s with
    | .next t => callAll ns t
    | o => o

end Sys2Proof.Machine
end

