-- ==== Sys2Proof/Certificates/Slice0/Obligations.lean ====
section
/-! DEFINITION. The statements for the provers. `exec i s` runs after the fetch, so `s.pc` is there the address of the
instruction plus 2 (R124); `stepEvent s` is the whole `Step` (R120). Where a statement says "from any state", it says so
of states no run reaches too; a premise `s.mem.wf` is part of the invariant `Inv`. -/

open Sys2Proof Sys2Proof.Machine

/-! ## Encoding -/

/-- Decoding the word of a well-formed instruction gives that instruction, every operand at every value (R94,
R96). -/
def Obligations.DecodeOfEncode : Prop :=
  ∀ i : Instr, i.wf = true → decode (encode i) = .ok i

/-- Every word has one meaning: what decodes is well formed and its word is the word decoded, the ignored bits
included (R94, R103). -/
def Obligations.EncodeOfDecode : Prop :=
  ∀ (w : Word) (i : Instr), decode w = .ok i → i.wf = true ∧ encode i = w

/-- R101: the illegal words, exhaustively, and what executing one raises. -/
def Obligations.IllegalWordsExhaustively : Prop :=
  (∀ w : Word, decode w = .error (.illegalOpcode w) ↔
    (opField w = 0x5 ∧ nField w ≠ 0) ∨
    (opField w = 0x8 ∧ nField w ∈ [0x8, 0x9, 0xA, 0xB, 0xC, 0xD, 0xF]) ∨
    (opField w = 0x9 ∧ nField w ≠ 0) ∨
    (opField w = 0xE ∧ nnField w ∉ [0x9E, 0xA1]) ∨
    (opField w = 0xF ∧ nnField w ∉ [0x07, 0x0A, 0x15, 0x18, 0x1E, 0x29, 0x33, 0x55, 0x65])) ∧
  (∀ w : Word, (∃ i, decode w = .ok i) ∨ decode w = .error (.illegalOpcode w)) ∧
  (∀ s : State, s.fetches → decode s.fetchWord = .error (.illegalOpcode s.fetchWord) →
    ∃ t, stepEvent s = .next t ∧ t.fault = some (.illegalOpcode s.fetchWord))

/-- A few words written out from the encoding column of R96. -/
def Obligations.WrittenWordsDecode : Prop :=
  decode 0b0000000011100000 = .ok .cls ∧
  decode 0b0000000011101110 = .ok .ret ∧
  decode 0b0000000000000000 = .ok (.sys 0) ∧
  decode 0b0001101010111100 = .ok (.jp 0xABC) ∧
  decode 0b0011101001111111 = .ok (.seByte 0xA 0x7F) ∧
  decode 0b1000101010110100 = .ok (.addReg 0xA 0xB) ∧
  decode 0b1000101010111110 = .ok (.shl 0xA 0xB) ∧
  decode 0b1101000100100011 = .ok (.drw 1 2 3) ∧
  decode 0b1110000110011110 = .ok (.skp 1) ∧
  decode 0b1111001100011110 = .ok (.addIVx 3) ∧
  decode 0b1000101010111000 = .error (.illegalOpcode 0x8AB8)

/-! ## The Step event -/

/-- When nothing else is scheduled and the bytes at `pc` are those of a word that decodes to `i`, `step` is
`exec i` with `pc` advanced by 2, and nothing around it (R120, R123, R124, R126). -/
def Obligations.StepRunsDecodedInstruction : Prop :=
  ∀ (s : State) (i : Instr), s.env.schedule = [] → s.fault = none → s.pc.toNat < s.programEnd.toNat →
    s.pc.toNat + 1 ≤ 0xFFF →
    (decode (s.byteAt s.pc.toNat ++ s.byteAt (s.pc.toNat + 1) : BitVec (8 + 8)) = .ok i →
      step s = exec i { s with pc := s.pc + 2 }) ∧
    (i.wf = true → [s.byteAt s.pc.toNat, s.byteAt (s.pc.toNat + 1)] = encodeBytes i →
      step s = exec i { s with pc := s.pc + 2 })

/-- The step of the machine is the next event of the schedule, which is used up; a `Step` when none is listed. That
the schedule is held in the state is the model's own choice (notes/assumptions/2.md). -/
def Obligations.StepRunsNextEvent : Prop :=
  ∀ s : State,
    (s.env.schedule = [] → step s = stepEvent s) ∧
    (∀ e rest, s.env.schedule = e :: rest → step s = runEvent e { s with env := { s.env with schedule := rest } })

/-- R62: the fetch is big-endian, and the first byte of the ROM is the high byte of the first instruction. -/
def Obligations.FetchIsBigEndian : Prop :=
  (∀ s : State, s.fetchWord.toNat = 256 * (s.byteAt s.pc.toNat).toNat + (s.byteAt (s.pc.toNat + 1)).toNat) ∧
  (∀ (s : State) (b0 b1 : Byte) (rom : List Byte), (b0 :: b1 :: rom).length ≤ 3584 →
    ∃ t, runEvent (.load (b0 :: b1 :: rom)) s = .next t ∧ t.fetchWord.toNat = 256 * b0.toNat + b1.toNat)

/-- R121: while a fault is latched a `Step` answers it and changes nothing, no random byte is consumed; and only a load
that succeeds clears the latch. -/
def Obligations.LatchedFaultRepeats : Prop :=
  ∀ (s : State) (f : Fault), s.fault = some f →
    stepEvent s = .next (s.answered (.fault f)) ∧
    (∀ (e : Event) (t : State), runEvent e s = .next t →
      t.fault = some f ∨ ∃ rom, e = .load rom ∧ rom.length ≤ 3584 ∧ t.fault = none)

/-- R122: at or past `program_end` a `Step` answers `Halted` and changes nothing, again at every further `Step`; below it no
`Step` answers `Halted`. -/
def Obligations.HaltsAtProgramEnd : Prop :=
  ∀ s : State, s.fault = none →
    (s.programEnd.toNat ≤ s.pc.toNat →
      stepEvent s = .next (s.answered .halted) ∧
        stepEvent (s.answered .halted) = .next (s.answered .halted)) ∧
    (s.pc.toNat < s.programEnd.toNat → ∀ t, stepEvent s = .next t → t.env.result ≠ some .halted)

/-- R123: the fetch, at an even or odd `pc`, and its one failing case. -/
def Obligations.FetchOrItsOneFault : Prop :=
  ∀ s : State, s.fault = none → s.pc.toNat < s.programEnd.toNat → s.programEnd.toNat ≤ 0x1000 →
    (s.pc.toNat ≠ 0xFFF → ∀ w : Word, w.toNat = (s.byteAt s.pc.toNat).toNat * 256 + (s.byteAt (s.pc.toNat + 1)).toNat →
      ∀ i, decode w = .ok i → stepEvent s = exec i { s with pc := s.pc + 2 }) ∧
    (s.pc.toNat = 0xFFF → s.programEnd.toNat = 0x1000 ∧ stepEvent s = .next (s.faulted (.memoryOutOfBounds 0x1000)))

/-- R251: a word that is none of the forms faults with the whole word as info, has no effect, and `pc` is past it. -/
def Obligations.IllegalWordFaults : Prop :=
  ∀ s : State, s.fetches → (∀ i, decode s.fetchWord ≠ .ok i) →
    stepEvent s = .next (({ s with pc := s.pc + 2 } : State).faulted (.illegalOpcode s.fetchWord))

/-- Every instruction from any state, and every event, answers a next state. THE MODEL'S CHOICE (notes/assumptions/9.md): a
fault is taken as a next state, with the latch set, and `Outcome.fault` and `Outcome.refused` are never answered. -/
def Obligations.NothingStops : Prop :=
  (∀ (i : Instr) (s : State), ∃ t, exec i s = .next t) ∧ (∀ s : State, ∃ t, step s = .next t)

/-- Faults are precise (R257, whose value of `pc` is the spec's own inference; notes/assumptions/13.md). A `Step` that latches a fault leaves everything but `pc` and the latch as it was, and `pc` is
past the instruction unless the fetch itself faulted. -/
def Obligations.FaultsArePrecise : Prop :=
  ∀ (s t : State) (f : Fault), s.fault = none → stepEvent s = .next t → t.fault = some f →
    (s.pc.toNat + 1 ≤ 0xFFF → t = ({ s with pc := s.pc + 2 } : State).faulted f) ∧
    (0xFFF < s.pc.toNat + 1 → t = s.faulted f ∧ ∃ a, f = .memoryOutOfBounds a)

/-- R129: what a `Step` never touches. -/
def Obligations.StepNeverTouches : Prop :=
  ∀ s t : State, stepEvent s = .next t →
    (t.dt = s.dt ∨ ∃ x, s.dispatches (.ldDtVx x) ∧ t.dt = s.reg x) ∧
    (t.st = s.st ∨ ∃ x, s.dispatches (.ldStVx x) ∧ t.st = s.reg x) ∧
    (s.dirty = true → t.dirty = true) ∧
    t.programEnd = s.programEnd ∧
    t.env.keys = s.env.keys ∧
    ((∃ x nn, s.dispatches (.rnd x nn)) → t.env.draws = s.env.draws + 1 ∧ t.env.rndIn = s.env.rndIn.tail) ∧
    ((¬ ∃ x nn, s.dispatches (.rnd x nn)) → t.env.draws = s.env.draws ∧ t.env.rndIn = s.env.rndIn)

/-- `pc` after a `Step`, by result (R128, an inference of the spec's own from R120 and R24). -/
def Obligations.PcAfterStep : Prop :=
  ∀ s t : State, stepEvent s = .next t →
    (t.env.result = some .halted → t.pc = s.pc) ∧
    (t.env.result = some .blocked → t.pc = s.pc) ∧
    (s.fault ≠ none → t.pc = s.pc) ∧
    (s.fault = none → t.fault ≠ none → t.pc = if s.pc.toNat + 1 ≤ 0xFFF then s.pc + 2 else s.pc) ∧
    (t.env.result = some .continued → ∃ i, s.dispatches i ∧
      match i with
      | .jp nnn | .call nnn => t.pc.toNat = nnn.toNat
      | .jpV0 nnn => t.pc.toNat = nnn.toNat + (s.reg 0).toNat
      | .ret => s.stack.getLast? = some t.pc
      | .seByte x nn => t.pc = if s.reg x = nn then s.pc + 4 else s.pc + 2
      | .sneByte x nn => t.pc = if s.reg x ≠ nn then s.pc + 4 else s.pc + 2
      | .seReg x y => t.pc = if s.reg x = s.reg y then s.pc + 4 else s.pc + 2
      | .sneReg x y => t.pc = if s.reg x ≠ s.reg y then s.pc + 4 else s.pc + 2
      | .skp x => t.pc = if s.env.keys.getLsbD ((s.reg x).toNat % 16) = true then s.pc + 4 else s.pc + 2
      | .sknp x => t.pc = if s.env.keys.getLsbD ((s.reg x).toNat % 16) = false then s.pc + 4 else s.pc + 2
      | _ => t.pc = s.pc + 2)

/-- R134: `Blocked` is answered only by `FX0A` with no key down, leaves every bit of state, the first `Step` with a key down
completes the instruction, and a `Tick` between them still counts. -/
def Obligations.BlockedOnlyByKeyWait : Prop :=
  (∀ s t : State, stepEvent s = .next t → t.env.result = some .blocked →
    (∃ x, s.dispatches (.ldVxK x)) ∧ (∀ k, k < 16 → s.env.keys.getLsbD k = false) ∧ t = s.answered .blocked) ∧
  (∀ (s : State) (x : Reg), s.dispatches (.ldVxK x) →
    ((∀ k, k < 16 → s.env.keys.getLsbD k = false) → stepEvent s = .next (s.answered .blocked) ∧
      ∃ t, runEvent .tick (s.answered .blocked) = .next t ∧ t.dt.toNat = s.dt.toNat - 1 ∧ t.st.toNat = s.st.toNat - 1) ∧
    (∀ k, k < 16 → s.env.keys.getLsbD k = true → (∀ j, j < k → s.env.keys.getLsbD j = false) →
      ∃ t, stepEvent s = .next t ∧ Completed t ∧ (t.reg x).toNat = k ∧ t.pc = s.pc + 2))

/-- The "writes" column of R37 (an inference of the spec's own from the instruction rules): which instruction writes which state, for all 35 forms: a form that raises no fault leaves everything its row does
not name, every register and every byte of memory its row does not name; one that raises a fault leaves everything but the
latch. -/
def Obligations.WritesOnlyWhatTheTableSays : Prop :=
  ∀ (i : Instr) (s t : State), s.mem.wf → exec i s = .next t →
    (∃ f, t = s.faulted f) ∨
    (SameBut (writes i) s t ∧ SameRegsBut (writtenRegs i) s t ∧ SameMemoryOutside s.i.toNat (writtenBytes i) s t)

/-- R28: `sp` is the number of pushed frames, 0 at reset and never above 16, and a `Step` changes it only by one, by `2NNN`
or `00EE`. -/
def Obligations.StackMovesByOneFrame : Prop :=
  State.reset.sp = 0 ∧
  ∀ s t : State, stepEvent s = .next t → t.sp = t.stack.length ∧ (s.sp ≤ 16 → t.sp ≤ 16) ∧
    (t.stack = s.stack ∨
    (∃ nnn, s.dispatches (.call nnn) ∧ t.stack = s.stack ++ [s.pc + 2] ∧ t.sp = s.sp + 1) ∨
    (s.dispatches .ret ∧ s.stack = t.stack ++ [t.pc] ∧ s.sp = t.sp + 1))

/-- `ST` and `dirty` are read by no instruction: a `Step` from states that differ only there ends in states that
differ only there. -/
def Obligations.NoStepReadsSoundTimerOrDirty : Prop :=
  ∀ (s t : State) (b : Byte) (d : Bool), stepEvent s = .next t →
    ∃ t', stepEvent { s with st := b, dirty := d } = .next t' ∧ t' = { t with st := t'.st, dirty := t'.dirty }

/-! ## Invariants -/

/-- Every step of the machine, whatever the next event, keeps the invariant. -/
def Obligations.StepKeepsInvariant : Prop :=
  ∀ s t : State, Inv s → step s = .next t → Inv t

/-- The reset state, the load of the empty ROM (notes/assumptions/1.md), has the invariant. -/
def Obligations.ResetHasInvariant : Prop := Inv State.reset

/-- Every state that any interleaving of events reaches from reset has the invariant, whatever the environment does. -/
def Obligations.ReachableStatesHaveInvariant : Prop :=
  ∀ s : State, Reachable s → Inv s

/-! ## The environment's events -/

/-- The state after a successful load, every element (R291). Two clauses are not the spec's alone: `FONT` is `Config.font`,
PRESUMED (notes/assumptions/5.md), and that the load keeps the key vector is THE MODEL'S CHOICE (notes/assumptions/4.md). -/
def Obligations.LoadDefinesEveryElement : Prop :=
  ∀ (rom : List Byte) (s : State), rom.length ≤ 3584 →
    ∃ t, runEvent (.load rom) s = .next t ∧ t.env.loadResult = .ok ∧
      (∀ a, a < 80 → some (t.byteAt a) = Config.font[a]?) ∧
      (∀ a, 0x050 ≤ a → a ≤ 0x1FF → t.byteAt a = 0) ∧
      (∀ k, k < rom.length → some (t.byteAt (0x200 + k)) = rom[k]?) ∧
      (∀ a, 0x200 + rom.length ≤ a → a ≤ 0xFFF → t.byteAt a = 0) ∧
      t.mem.wf ∧ t.pc.toNat = 0x200 ∧ t.programEnd.toNat = 0x200 + rom.length ∧ (∀ r, t.reg r = 0) ∧ t.i = 0 ∧
      t.stack = [] ∧ t.sp = 0 ∧ t.dt = 0 ∧ t.st = 0 ∧ t.soundOn = false ∧ (∀ y x, t.pixel y x = false) ∧
      t.dirty = false ∧ t.fault = none ∧ t.env.keys = s.env.keys

/-- R292: a ROM of more than 3584 bytes is refused and nothing changes, in any status; every other ROM, one of exactly 3584
bytes included, loads. -/
def Obligations.LoadRefusesOnlyTooLarge : Prop :=
  ∀ (rom : List Byte) (s : State),
    (rom.length > 3584 →
      runEvent (.load rom) s = .next { s with env := { s.env with loadResult := .programTooLarge } }) ∧
    (rom.length ≤ 3584 → ∃ t, runEvent (.load rom) s = .next t ∧ t.env.loadResult = .ok ∧
      t.programEnd.toNat = 0x200 + rom.length)

/-- R240: a tick lowers each timer by 1 if it is not 0 and does nothing else; `n` ticks take a timer from `n` to 0; the sound
stops at the tick that takes `ST` from 1 to 0. -/
def Obligations.TickCountsDown : Prop :=
  (∀ s : State, ∃ t, runEvent .tick s = .next t ∧ t.dt.toNat = s.dt.toNat - 1 ∧ t.st.toNat = s.st.toNat - 1 ∧
    t = { s with dt := t.dt, st := t.st } ∧ (s.st = 1 → s.soundOn = true ∧ t.soundOn = false)) ∧
  (∀ (n : Nat) (s : State), (State.tick^[n] s).dt.toNat = s.dt.toNat - n ∧ (State.tick^[n] s).st.toNat = s.st.toNat - n)

/-- R53, R54: the whole effect of `SetKeys` and of `ClearDirty`, in every status of the core. -/
def Obligations.SetKeysAndClearDirty : Prop :=
  ∀ (s : State) (k : BitVec 16),
    runEvent (.setKeys k) s = .next { s with env := { s.env with keys := k } } ∧
    runEvent .clearDirty s = .next { s with dirty := false }

/-! ## Register, arithmetic, logic and random instructions -/

/-- R165, R166: load immediate, and add immediate modulo 256 with no carry recorded. -/
def Obligations.ImmediateLoadAndAdd : Prop :=
  ∀ (x : Reg) (nn : Byte) (s : State),
    (decode (wordXI 0x6 x nn) = .ok (.ldByte x nn) ∧
      ∃ t, exec (.ldByte x nn) s = .next t ∧ Completed t ∧ t.reg x = nn ∧ SameRegsBut [x] s t ∧ SameBut [.regs] s t) ∧
    (decode (wordXI 0x7 x nn) = .ok (.addByte x nn) ∧
      ∃ t, exec (.addByte x nn) s = .next t ∧ Completed t ∧ (t.reg x).toNat = ((s.reg x).toNat + nn.toNat) % 256 ∧
        SameRegsBut [x] s t ∧ SameBut [.regs] s t)

/-- R167 to R170: copy, and the bitwise forms; VF is untouched unless it is the destination. -/
def Obligations.CopyAndLogic : Prop :=
  ∀ (x y : Reg) (s : State),
    (decode (wordXYN 0x8 x y 0x0) = .ok (.ldReg x y) ∧
      ∃ t, exec (.ldReg x y) s = .next t ∧ Completed t ∧ t.reg x = s.reg y ∧ SameRegsBut [x] s t ∧ SameBut [.regs] s t) ∧
    (decode (wordXYN 0x8 x y 0x1) = .ok (.orReg x y) ∧
      ∃ t, exec (.orReg x y) s = .next t ∧ Completed t ∧
        (∀ k, (t.reg x).getLsbD k = ((s.reg x).getLsbD k || (s.reg y).getLsbD k)) ∧
        SameRegsBut [x] s t ∧ SameBut [.regs] s t) ∧
    (decode (wordXYN 0x8 x y 0x2) = .ok (.andReg x y) ∧
      ∃ t, exec (.andReg x y) s = .next t ∧ Completed t ∧
        (∀ k, (t.reg x).getLsbD k = ((s.reg x).getLsbD k && (s.reg y).getLsbD k)) ∧
        SameRegsBut [x] s t ∧ SameBut [.regs] s t) ∧
    (decode (wordXYN 0x8 x y 0x3) = .ok (.xorReg x y) ∧
      ∃ t, exec (.xorReg x y) s = .next t ∧ Completed t ∧
        (∀ k, (t.reg x).getLsbD k = ((s.reg x).getLsbD k ^^ (s.reg y).getLsbD k)) ∧
        SameRegsBut [x] s t ∧ SameBut [.regs] s t)

/-- R172: add with carry out; VF is written last, so with `X = 0xF` the sum is lost. -/
def Obligations.AddWithCarry : Prop :=
  ∀ (x y : Reg) (s : State),
    decode (wordXYN 0x8 x y 0x4) = .ok (.addReg x y) ∧
    ∃ t, exec (.addReg x y) s = .next t ∧ Completed t ∧
      (x ≠ 15 → (t.reg x).toNat = ((s.reg x).toNat + (s.reg y).toNat) % 256) ∧
      t.reg 15 = (if (s.reg x).toNat + (s.reg y).toNat > 255 then 1 else 0) ∧
      SameRegsBut [x, 15] s t ∧ SameBut [.regs] s t

/-- R173, R175: both subtractions; the flag is "no borrow", from the original operands. For `X = 0xF` or `Y = 0xF` the two
rules refer to R179: the values there are those of `FlagRegisterAsOperand`. -/
def Obligations.SubtractBothWays : Prop :=
  ∀ (x y : Reg) (s : State),
    (decode (wordXYN 0x8 x y 0x5) = .ok (.subReg x y) ∧
      ∃ t, exec (.subReg x y) s = .next t ∧ Completed t ∧ SameRegsBut [x, 15] s t ∧ SameBut [.regs] s t ∧
        (x ≠ 15 → y ≠ 15 → (t.reg x).toNat = ((s.reg x).toNat + 256 - (s.reg y).toNat) % 256 ∧
          t.reg 15 = if (s.reg x).toNat ≥ (s.reg y).toNat then 1 else 0)) ∧
    (decode (wordXYN 0x8 x y 0x7) = .ok (.subnReg x y) ∧
      ∃ t, exec (.subnReg x y) s = .next t ∧ Completed t ∧ SameRegsBut [x, 15] s t ∧ SameBut [.regs] s t ∧
        (x ≠ 15 → y ≠ 15 → (t.reg x).toNat = ((s.reg y).toNat + 256 - (s.reg x).toNat) % 256 ∧
          t.reg 15 = if (s.reg y).toNat ≥ (s.reg x).toNat then 1 else 0))

/-- R174, R176: both shifts, in place, whatever the `Y` field; VF is the bit shifted out. For `X = 0xF` the two rules refer to
R179: the values there are those of `FlagRegisterAsOperand`. -/
def Obligations.ShiftInPlace : Prop :=
  ∀ (x y : Reg) (s : State),
    (decode (wordXYN 0x8 x y 0x6) = .ok (.shr x y) ∧
      ∃ t, exec (.shr x y) s = .next t ∧ Completed t ∧ SameRegsBut [x, 15] s t ∧ SameBut [.regs] s t ∧
        (x ≠ 15 → (t.reg x).toNat = (s.reg x).toNat / 2 ∧ (t.reg 15).toNat = (s.reg x).toNat % 2)) ∧
    (decode (wordXYN 0x8 x y 0xE) = .ok (.shl x y) ∧
      ∃ t, exec (.shl x y) s = .next t ∧ Completed t ∧ SameRegsBut [x, 15] s t ∧ SameBut [.regs] s t ∧
        (x ≠ 15 → (t.reg x).toNat = 2 * (s.reg x).toNat % 256 ∧ (t.reg 15).toNat = (s.reg x).toNat / 128))

/-- THE MODEL'S CHOICE of the parameter VF_ALIAS, `sampled` (notes/assumptions/10.md): VF as an operand of the flag-writing
forms, every row of R179's column "this spec". -/
def Obligations.FlagRegisterAsOperand : Prop :=
  ∀ (x y : Reg) (s : State), x ≠ 15 → y ≠ 15 →
    (∃ t, exec (.addReg 15 y) s = .next t ∧ t.reg 15 = if (s.reg 15).toNat + (s.reg y).toNat > 255 then 1 else 0) ∧
    (∃ t, exec (.addReg x 15) s = .next t ∧ (t.reg x).toNat = ((s.reg x).toNat + (s.reg 15).toNat) % 256 ∧
      t.reg 15 = if (s.reg x).toNat + (s.reg 15).toNat > 255 then 1 else 0) ∧
    (∃ t, exec (.addReg 15 15) s = .next t ∧ t.reg 15 = if 2 * (s.reg 15).toNat > 255 then 1 else 0) ∧
    (∃ t, exec (.subReg 15 y) s = .next t ∧ (t.reg 15).toNat = ((s.reg 15).toNat + 256 - (s.reg y).toNat) % 256) ∧
    (∃ t, exec (.subReg x 15) s = .next t ∧ (t.reg x).toNat = ((s.reg x).toNat + 256 - (s.reg 15).toNat) % 256 ∧
      t.reg 15 = if (s.reg x).toNat ≥ (s.reg 15).toNat then 1 else 0) ∧
    (∃ t, exec (.subReg 15 15) s = .next t ∧ t.reg 15 = 0) ∧
    (∀ z, ∃ t, exec (.shr 15 z) s = .next t ∧ (t.reg 15).toNat = (s.reg 15).toNat / 2) ∧
    (∃ t, exec (.subnReg 15 y) s = .next t ∧ (t.reg 15).toNat = ((s.reg y).toNat + 256 - (s.reg 15).toNat) % 256) ∧
    (∃ t, exec (.subnReg x 15) s = .next t ∧ (t.reg x).toNat = ((s.reg 15).toNat + 256 - (s.reg x).toNat) % 256 ∧
      t.reg 15 = if (s.reg 15).toNat ≥ (s.reg x).toNat then 1 else 0) ∧
    (∃ t, exec (.subnReg 15 15) s = .next t ∧ t.reg 15 = 0) ∧
    (∀ z, ∃ t, exec (.shl 15 z) s = .next t ∧ (t.reg 15).toNat = 2 * (s.reg 15).toNat % 256)

/-- `CXNN` masks one random byte (R178). How the bytes are held is THE MODEL'S CHOICE (notes/assumptions/3.md): a byte waiting
at the input is the one used; with none waiting the byte is free, and the statement holds for every value of it. -/
def Obligations.RandomByteMasked : Prop :=
  ∀ (x : Reg) (nn : Byte) (s : State),
    decode (wordXI 0xC x nn) = .ok (.rnd x nn) ∧
    ∃ t, exec (.rnd x nn) s = .next t ∧ Completed t ∧ t.reg x = s.rndByte &&& nn ∧
      (∀ b rest, s.env.rndIn = b :: rest → t.reg x = b &&& nn ∧ t.env.rndIn = rest) ∧
      (s.env.rndIn = [] → t.env.rndIn = []) ∧
      t.env.draws = s.env.draws + 1 ∧
      (∀ k, nn.getLsbD k = false → (t.reg x).getLsbD k = false) ∧
      SameRegsBut [x] s t ∧ SameBut [.regs, .random] s t

/-! ## Index register and memory -/

/-- R192, R194, R195: the three writers of `I`: 12 bits zero-extended, a sum modulo 65536, five times the whole byte; VF is
untouched. -/
def Obligations.IndexRegisterWriters : Prop :=
  ∀ (x : Reg) (nnn : BitVec 12) (s : State),
    (decode (wordA 0xA nnn) = .ok (.ldI nnn) ∧
      ∃ t, exec (.ldI nnn) s = .next t ∧ Completed t ∧ t.i.toNat = nnn.toNat ∧ SameBut [.index] s t) ∧
    (decode (wordXI 0xF x 0x1E) = .ok (.addIVx x) ∧
      ∃ t, exec (.addIVx x) s = .next t ∧ Completed t ∧ t.i.toNat = (s.i.toNat + (s.reg x).toNat) % 65536 ∧
        SameBut [.index] s t) ∧
    (decode (wordXI 0xF x 0x29) = .ok (.ldFVx x) ∧
      ∃ t, exec (.ldFVx x) s = .next t ∧ Completed t ∧ t.i.toNat = 5 * (s.reg x).toNat ∧ SameBut [.index] s t)

/-- R196: the three decimal digits at `I`, `I + 1`, `I + 2`; out of range nothing is written. -/
def Obligations.DecimalStore : Prop :=
  ∀ (x : Reg) (s : State), s.mem.wf →
    decode (wordXI 0xF x 0x33) = .ok (.ldBVx x) ∧
    (s.i.toNat + 2 ≤ 0xFFF →
      ∃ t, exec (.ldBVx x) s = .next t ∧ Completed t ∧
        (t.byteAt s.i.toNat).toNat = (s.reg x).toNat / 100 ∧
        (t.byteAt (s.i.toNat + 1)).toNat = (s.reg x).toNat / 10 % 10 ∧
        (t.byteAt (s.i.toNat + 2)).toNat = (s.reg x).toNat % 10 ∧
        SameMemoryOutside s.i.toNat 3 s t ∧ SameBut [.memory] s t) ∧
    (0xFFF < s.i.toNat + 2 → exec (.ldBVx x) s = .next (s.faulted (.memoryOutOfBounds (max s.i.toNat 0x1000))))

/-- R197: `V[0]` to `V[X]` at `I` to `I + X`; out of range nothing is written. -/
def Obligations.RegisterStore : Prop :=
  ∀ (x : Reg) (s : State), s.mem.wf →
    decode (wordXI 0xF x 0x55) = .ok (.ldMemVx x) ∧
    (s.i.toNat + x.val ≤ 0xFFF →
      ∃ t, exec (.ldMemVx x) s = .next t ∧ Completed t ∧
        (∀ k : Reg, k ≤ x → t.byteAt (s.i.toNat + k.val) = s.reg k) ∧
        SameMemoryOutside s.i.toNat (x.val + 1) s t ∧ SameBut [.memory] s t) ∧
    (0xFFF < s.i.toNat + x.val → exec (.ldMemVx x) s = .next (s.faulted (.memoryOutOfBounds (max s.i.toNat 0x1000))))

/-- R198: `V[0]` to `V[X]` from `I` to `I + X`, higher registers untouched; out of range no register is written. -/
def Obligations.RegisterLoad : Prop :=
  ∀ (x : Reg) (s : State),
    decode (wordXI 0xF x 0x65) = .ok (.ldVxMem x) ∧
    (s.i.toNat + x.val ≤ 0xFFF →
      ∃ t, exec (.ldVxMem x) s = .next t ∧ Completed t ∧
        (∀ k : Reg, k ≤ x → t.reg k = s.byteAt (s.i.toNat + k.val)) ∧ (∀ k : Reg, x < k → t.reg k = s.reg k) ∧
        SameBut [.regs] s t) ∧
    (0xFFF < s.i.toNat + x.val → exec (.ldVxMem x) s = .next (s.faulted (.memoryOutOfBounds (max s.i.toNat 0x1000))))

/-- R77, R254: an instruction that would touch an address above 0xFFF takes the fault before any of its effects, with the
lowest such address; `DXYN` with `N = 0` never does. -/
def Obligations.RangeCheckBeforeAnyEffect : Prop :=
  ∀ (x y : Reg) (n : BitVec 4) (s : State),
    (0xFFF < s.i.toNat + 2 → exec (.ldBVx x) s = .next (s.faulted (.memoryOutOfBounds (max s.i.toNat 0x1000)))) ∧
    (0xFFF < s.i.toNat + x.val → exec (.ldMemVx x) s = .next (s.faulted (.memoryOutOfBounds (max s.i.toNat 0x1000)))) ∧
    (0xFFF < s.i.toNat + x.val → exec (.ldVxMem x) s = .next (s.faulted (.memoryOutOfBounds (max s.i.toNat 0x1000)))) ∧
    (1 ≤ n.toNat → 0xFFF < s.i.toNat + n.toNat - 1 →
      exec (.drw x y n) s = .next (s.faulted (.memoryOutOfBounds (max s.i.toNat 0x1000)))) ∧
    (∃ t, exec (.drw x y 0) s = .next t ∧ Completed t ∧ t.fault = s.fault) ∧
    (s.fault = none → s.pc.toNat = 0xFFF → s.programEnd.toNat = 0x1000 →
      stepEvent s = .next (s.faulted (.memoryOutOfBounds 0x1000)))

/-- Registers stored by `FX55` and loaded back by `FX65` at the same `I`, whatever happened to the registers
and everything but memory in between, are restored. -/
def Obligations.StoreThenLoadRestores : Prop :=
  ∀ (x : Reg) (s : State), s.mem.wf → s.i.toNat + x.val ≤ 0xFFF →
    ∃ t, exec (.ldMemVx x) s = .next t ∧
      ∀ s' : State, s'.mem = t.mem → s'.i = s.i → ∃ u, exec (.ldVxMem x) s' = .next u ∧ ∀ k : Reg, k ≤ x → u.reg k = s.reg k

/-- A store is seen by the next fetch with nothing in between: an `FX55` over the next instruction, and the next
`Step` dispatches what was stored (R74). -/
def Obligations.StoreIsSeenByNextFetch : Prop :=
  ∀ (x : Reg) (s : State) (i : Instr), s.mem.wf → s.dispatches (.ldMemVx x) → 1 ≤ x.val → s.i = s.pc + 2 →
    s.i.toNat + x.val ≤ 0xFFF → s.i.toNat < s.programEnd.toNat →
    decode (s.reg 0 ++ s.reg 1 : BitVec (8 + 8)) = .ok i →
    ∃ t, stepEvent s = .next t ∧ t.dispatches i

/-! ## Display -/

/-- R212: clear the screen. -/
def Obligations.ClearScreen : Prop :=
  ∀ s : State, decode 0x00E0 = .ok .cls ∧
    ∃ t, exec .cls s = .next t ∧ Completed t ∧ (∀ y x, t.pixel y x = false) ∧ t.dirty = true ∧
      SameBut [.pixels, .dirty] s t

/-- `DXYN` (R215): a drawn sprite flips exactly the pixels under its 1 bits, both coordinates wrapping; VF is 1 if one of them
was lit and 0 else; `dirty` is set; everything else is unchanged. Out of range nothing changes. With `X = 0xF` or `Y = 0xF`
the coordinate is the one VF held before: THE MODEL'S CHOICE of VF_ALIAS, `sampled` (notes/assumptions/10.md). -/
def Obligations.DrawFlipsAndDetects : Prop :=
  ∀ (x y : Reg) (n : BitVec 4) (s : State),
    decode (wordXYN 0xD x y n) = .ok (.drw x y n) ∧
    (n = 0 ∨ s.i.toNat + n.toNat - 1 ≤ 0xFFF →
      ∃ t, exec (.drw x y n) s = .next t ∧ Completed t ∧
        (∀ py px, s.spriteLights ((s.reg x).toNat % 64) ((s.reg y).toNat % 32) n.toNat py px →
          t.pixel py px = !s.pixel py px) ∧
        (∀ py px, ¬ s.spriteLights ((s.reg x).toNat % 64) ((s.reg y).toNat % 32) n.toNat py px →
          t.pixel py px = s.pixel py px) ∧
        ((∃ py px, s.spriteLights ((s.reg x).toNat % 64) ((s.reg y).toNat % 32) n.toNat py px ∧ s.pixel py px = true) →
          t.reg 15 = 1) ∧
        ((¬ ∃ py px, s.spriteLights ((s.reg x).toNat % 64) ((s.reg y).toNat % 32) n.toNat py px ∧ s.pixel py px = true) →
          t.reg 15 = 0) ∧
        t.dirty = true ∧ SameRegsBut [15] s t ∧ SameBut [.regs, .pixels, .dirty] s t) ∧
    (1 ≤ n.toNat → 0xFFF < s.i.toNat + n.toNat - 1 →
      exec (.drw x y n) s = .next (s.faulted (.memoryOutOfBounds (max s.i.toNat 0x1000))))

/-- Drawing the same sprite twice restores the framebuffer; VF after the first draw tells of a lit pixel under the
sprite, after the second of a dark one (R216, an inference of the spec's own from R215). -/
def Obligations.DoubleDrawRestores : Prop :=
  ∀ (x y : Reg) (n : BitVec 4) (s : State), x ≠ 15 → y ≠ 15 → (n = 0 ∨ s.i.toNat + n.toNat - 1 ≤ 0xFFF) →
    ∃ t u, exec (.drw x y n) s = .next t ∧ exec (.drw x y n) t = .next u ∧ u.fb = s.fb ∧
      (t.reg 15 = 1 ↔ ∃ py px, s.spriteLights ((s.reg x).toNat % 64) ((s.reg y).toNat % 32) n.toNat py px ∧
        s.pixel py px = true) ∧
      (u.reg 15 = 1 ↔ ∃ py px, s.spriteLights ((s.reg x).toNat % 64) ((s.reg y).toNat % 32) n.toNat py px ∧
        s.pixel py px = false)

/-- R217: wrap at the right edge and, with modulus 32, at the bottom. (`X` or `Y = 0xF`: `DrawFlipsAndDetects`.) -/
def Obligations.DrawWrapsAtTheEdges : Prop :=
  (∀ (x y : Reg) (s : State), x ≠ 15 → y ≠ 15 → (s.reg x).toNat % 64 = 60 → s.i.toNat ≤ 0xFFF → s.byteAt s.i.toNat = 0xFF →
    (∀ py px, s.pixel py px = false) →
    ∃ t, exec (.drw x y 1) s = .next t ∧ ∀ (py : Fin 32) (px : Fin 64),
      t.pixel py px = true ↔ py.val = (s.reg y).toNat % 32 ∧ px.val ∈ [60, 61, 62, 63, 0, 1, 2, 3]) ∧
  (∀ (x y : Reg) (s : State), x ≠ 15 → y ≠ 15 → (s.reg y).toNat % 32 = 30 → s.i.toNat + 3 ≤ 0xFFF →
    (∀ r, r < 4 → s.byteAt (s.i.toNat + r) = 0x80) → (∀ py px, s.pixel py px = false) →
    ∃ t, exec (.drw x y 4) s = .next t ∧ ∀ (py : Fin 32) (px : Fin 64),
      t.pixel py px = true ↔ py.val ∈ [30, 31, 0, 1] ∧ px.val = (s.reg x).toNat % 64)

/-! ## Control flow -/

/-- R142, R143, R146: the no-operation, the jump, the jump with offset, which is not reduced modulo 4096. -/
def Obligations.JumpsAndNoOperation : Prop :=
  ∀ (nnn : BitVec 12) (s : State),
    (nnn ≠ 0x0E0 → nnn ≠ 0x0EE → decode (wordA 0x0 nnn) = .ok (.sys nnn)) ∧
    (∃ t, exec (.sys nnn) s = .next t ∧ Completed t ∧ SameBut [] s t) ∧
    decode (wordA 0x1 nnn) = .ok (.jp nnn) ∧
    (∃ t, exec (.jp nnn) s = .next t ∧ Completed t ∧ t.pc.toNat = nnn.toNat ∧ SameBut [.pc] s t) ∧
    decode (wordA 0xB nnn) = .ok (.jpV0 nnn) ∧
    (∃ t, exec (.jpV0 nnn) s = .next t ∧ Completed t ∧ t.pc.toNat = nnn.toNat + (s.reg 0).toNat ∧ SameBut [.pc] s t)

/-- R147 to R150: the four skips on registers. `s.pc` is the address of the instruction plus 2. -/
def Obligations.RegisterSkips : Prop :=
  ∀ (x y : Reg) (nn : Byte) (s : State),
    (decode (wordXI 0x3 x nn) = .ok (.seByte x nn) ∧
      ∃ t, exec (.seByte x nn) s = .next t ∧ Completed t ∧ t.pc = (if s.reg x = nn then s.pc + 2 else s.pc) ∧
        SameBut [.pc] s t) ∧
    (decode (wordXI 0x4 x nn) = .ok (.sneByte x nn) ∧
      ∃ t, exec (.sneByte x nn) s = .next t ∧ Completed t ∧ t.pc = (if s.reg x ≠ nn then s.pc + 2 else s.pc) ∧
        SameBut [.pc] s t) ∧
    (decode (wordXYN 0x5 x y 0) = .ok (.seReg x y) ∧
      ∃ t, exec (.seReg x y) s = .next t ∧ Completed t ∧ t.pc = (if s.reg x = s.reg y then s.pc + 2 else s.pc) ∧
        SameBut [.pc] s t) ∧
    (decode (wordXYN 0x9 x y 0) = .ok (.sneReg x y) ∧
      ∃ t, exec (.sneReg x y) s = .next t ∧ Completed t ∧ t.pc = (if s.reg x ≠ s.reg y then s.pc + 2 else s.pc) ∧
        SameBut [.pc] s t)

/-- R144, R252: a call pushes the address of the instruction after it, unless 16 entries are pushed; then it takes the
fault, `pc` stays past the call, the stack is intact. -/
def Obligations.CallPushesOrOverflows : Prop :=
  ∀ (nnn : BitVec 12) (s : State),
    decode (wordA 0x2 nnn) = .ok (.call nnn) ∧
    (s.sp < 16 → ∃ t, exec (.call nnn) s = .next t ∧ Completed t ∧ t.stack = s.stack ++ [s.pc] ∧ t.sp = s.sp + 1 ∧
      t.pc.toNat = nnn.toNat ∧ SameBut [.stack, .pc] s t) ∧
    (s.sp = 16 → exec (.call nnn) s = .next (s.faulted .stackOverflow))

/-- R140, R253: a return pops the last entry into `pc`, unless none is pushed; then it takes the fault. -/
def Obligations.ReturnPopsOrUnderflows : Prop :=
  ∀ s : State,
    decode 0x00EE = .ok .ret ∧
    (∀ l a, s.stack = l ++ [a] → ∃ t, exec .ret s = .next t ∧ Completed t ∧ t.stack = l ∧ s.sp = t.sp + 1 ∧ t.pc = a ∧
      SameBut [.stack, .pc] s t) ∧
    (s.sp = 0 → exec .ret s = .next (s.faulted .stackUnderflow))

/-- A return undoes the call before it: back to the instruction after the call, everything else as it was
(R153). -/
def Obligations.ReturnUndoesCall : Prop :=
  ∀ (nnn : BitVec 12) (s : State), s.sp < 16 →
    ∃ t u, exec (.call nnn) s = .next t ∧ exec .ret t = .next u ∧ SameBut [] s u

/-- 16 nested calls succeed and the 17th overflows, whatever the targets (a corner case of R144). -/
def Obligations.SixteenCallsNest : Prop :=
  ∀ (l : List (BitVec 12)) (s : State), s.stack = [] →
    (l.length ≤ 16 → ∃ t, callAll l s = .next t ∧ t.sp = l.length ∧ t.fault = s.fault) ∧
    (l.length = 16 → ∀ nnn, ∃ t, callAll (l ++ [nnn]) s = .next t ∧ t.sp = 16 ∧ t.fault = some .stackOverflow)

/-! ## Timers and keys -/

/-- R232, R233: the key skips test the level of the key named by the low nibble; for one key vector exactly one of the two
skips. -/
def Obligations.KeySkips : Prop :=
  ∀ (x : Reg) (s : State),
    (decode (wordXI 0xE x 0x9E) = .ok (.skp x) ∧
      ∃ t, exec (.skp x) s = .next t ∧ Completed t ∧
        t.pc = (if s.env.keys.getLsbD ((s.reg x).toNat % 16) = true then s.pc + 2 else s.pc) ∧ SameBut [.pc] s t) ∧
    (decode (wordXI 0xE x 0xA1) = .ok (.sknp x) ∧
      ∃ t, exec (.sknp x) s = .next t ∧ Completed t ∧
        t.pc = (if s.env.keys.getLsbD ((s.reg x).toNat % 16) = false then s.pc + 2 else s.pc) ∧ SameBut [.pc] s t)

/-- R234, R237, R238: the timer forms; `sound_on` follows `ST` at once. -/
def Obligations.TimerAccess : Prop :=
  ∀ (x : Reg) (s : State),
    (decode (wordXI 0xF x 0x07) = .ok (.ldVxDt x) ∧
      ∃ t, exec (.ldVxDt x) s = .next t ∧ Completed t ∧ t.reg x = s.dt ∧ SameRegsBut [x] s t ∧ SameBut [.regs] s t) ∧
    (decode (wordXI 0xF x 0x15) = .ok (.ldDtVx x) ∧
      ∃ t, exec (.ldDtVx x) s = .next t ∧ Completed t ∧ t.dt = s.reg x ∧ SameBut [.dt] s t) ∧
    (decode (wordXI 0xF x 0x18) = .ok (.ldStVx x) ∧
      ∃ t, exec (.ldStVx x) s = .next t ∧ Completed t ∧ t.st = s.reg x ∧ (t.soundOn = true ↔ s.reg x ≠ 0) ∧
        SameBut [.st] s t)

/-- R236: the key wait: with no key down `pc` is rewound and nothing else changes; else the least key that is down. -/
def Obligations.KeyWait : Prop :=
  ∀ (x : Reg) (s : State),
    decode (wordXI 0xF x 0x0A) = .ok (.ldVxK x) ∧
    ((∀ k, k < 16 → s.env.keys.getLsbD k = false) →
      exec (.ldVxK x) s = .next (({ s with pc := s.pc - 2 } : State).answered .blocked)) ∧
    (∀ k, k < 16 → s.env.keys.getLsbD k = true → (∀ j, j < k → s.env.keys.getLsbD j = false) →
      ∃ t, exec (.ldVxK x) s = .next t ∧ Completed t ∧ (t.reg x).toNat = k ∧ SameRegsBut [x] s t ∧ SameBut [.regs] s t)

/-- The core is waiting for a key, as R243 says when it is, exactly when a `Step` answers `Blocked`. -/
def Obligations.WaitingIsBlocked : Prop :=
  ∀ s : State,
    (s.waiting = true ↔ s.fetches ∧ (∃ x, decode s.fetchWord = .ok (.ldVxK x)) ∧
      ∀ k, k < 16 → s.env.keys.getLsbD k = false) ∧
    (s.waiting = true ↔ ∃ t, stepEvent s = .next t ∧ t.env.result = some .blocked)
end

