-- ==== Sys2Proof/Laws/Decode.lean ====
section
/-! SUPPORT. The fields of a word built in each format, and words rebuilt from their fields (spec/30_encoding.md R91, R92). -/

namespace Sys2Proof

/-- A word is its `op` and `NNN` (R92). -/
theorem wordA_fields (w : Word) : wordA (opField w) (nnnField w) = w := by
  unfold wordA opField nnnField
  apply BitVec.eq_of_getLsbD_eq
  intro k hk
  rw [BitVec.getLsbD_append (n := 4) (m := 12)]
  simp only [BitVec.getLsbD_extractLsb', Nat.zero_add]
  by_cases h : k < 12
  · simp [h]
  · simp only [h, decide_false, Bool.false_and]
    rw [show 12 + (k - 12) = k by omega]; simp; omega

@[simp] theorem opField_wordA (op : BitVec 4) (nnn : BitVec 12) : opField (wordA op nnn) = op := by
  unfold opField wordA
  apply BitVec.eq_of_getLsbD_eq
  intro k hk
  rw [BitVec.getLsbD_extractLsb', BitVec.getLsbD_append (n := 4) (m := 12)]
  simp [hk]

@[simp] theorem nnnField_wordA (op : BitVec 4) (nnn : BitVec 12) : nnnField (wordA op nnn) = nnn := by
  unfold nnnField wordA
  apply BitVec.eq_of_getLsbD_eq
  intro k hk
  rw [BitVec.getLsbD_extractLsb', BitVec.getLsbD_append (n := 4) (m := 12)]
  simp [hk]

@[simp] theorem opField_wordXI (op : BitVec 4) (x : Reg) (nn : Byte) : opField (wordXI op x nn) = op := by
  unfold opField wordXI
  apply BitVec.eq_of_getLsbD_eq
  intro k hk
  rw [BitVec.getLsbD_extractLsb', BitVec.getLsbD_append (n := 4 + 4) (m := 8), BitVec.getLsbD_append (n := 4) (m := 4)]
  have h1 : ¬ 12 + k < 8 := by omega
  have h2 : ¬ 12 + k - 8 < 4 := by omega
  have h3 : 12 + k - 8 - 4 = k := by omega
  simp [hk, h1, h2, h3]

@[simp] theorem xField_wordXI (op : BitVec 4) (x : Reg) (nn : Byte) : xField (wordXI op x nn) = x := by
  have : (wordXI op x nn).extractLsb' 8 4 = regBits x := by
    unfold wordXI
    apply BitVec.eq_of_getLsbD_eq
    intro k hk
    rw [BitVec.getLsbD_extractLsb', BitVec.getLsbD_append (n := 4 + 4) (m := 8), BitVec.getLsbD_append (n := 4) (m := 4)]
    simp [hk]
  exact congrArg BitVec.toFin this

@[simp] theorem nnField_wordXI (op : BitVec 4) (x : Reg) (nn : Byte) : nnField (wordXI op x nn) = nn := by
  unfold nnField wordXI
  apply BitVec.eq_of_getLsbD_eq
  intro k hk
  rw [BitVec.getLsbD_extractLsb', BitVec.getLsbD_append (n := 4 + 4) (m := 8)]
  simp [hk]

@[simp] theorem opField_wordXYN (op : BitVec 4) (x y : Reg) (n : BitVec 4) : opField (wordXYN op x y n) = op := by
  unfold opField wordXYN
  apply BitVec.eq_of_getLsbD_eq
  intro k hk
  rw [BitVec.getLsbD_extractLsb', BitVec.getLsbD_append (n := 4 + 4 + 4) (m := 4),
    BitVec.getLsbD_append (n := 4 + 4) (m := 4), BitVec.getLsbD_append (n := 4) (m := 4)]
  have h1 : ¬ 12 + k < 4 := by omega
  have h2 : ¬ 12 + k - 4 < 4 := by omega
  have h3 : ¬ 12 + k - 4 - 4 < 4 := by omega
  have h4 : 12 + k - 4 - 4 - 4 = k := by omega
  simp [hk, h1, h2, h3, h4]

@[simp] theorem xField_wordXYN (op : BitVec 4) (x y : Reg) (n : BitVec 4) : xField (wordXYN op x y n) = x := by
  have : (wordXYN op x y n).extractLsb' 8 4 = regBits x := by
    unfold wordXYN
    apply BitVec.eq_of_getLsbD_eq
    intro k hk
    rw [BitVec.getLsbD_extractLsb', BitVec.getLsbD_append (n := 4 + 4 + 4) (m := 4),
      BitVec.getLsbD_append (n := 4 + 4) (m := 4), BitVec.getLsbD_append (n := 4) (m := 4)]
    have h1 : ¬ 8 + k < 4 := by omega
    have h2 : ¬ 8 + k - 4 < 4 := by omega
    have h3 : 8 + k - 4 - 4 = k := by omega
    simp [hk, h1, h2, h3]
  exact congrArg BitVec.toFin this

@[simp] theorem yField_wordXYN (op : BitVec 4) (x y : Reg) (n : BitVec 4) : yField (wordXYN op x y n) = y := by
  have : (wordXYN op x y n).extractLsb' 4 4 = regBits y := by
    unfold wordXYN
    apply BitVec.eq_of_getLsbD_eq
    intro k hk
    rw [BitVec.getLsbD_extractLsb', BitVec.getLsbD_append (n := 4 + 4 + 4) (m := 4),
      BitVec.getLsbD_append (n := 4 + 4) (m := 4)]
    simp [hk]
  exact congrArg BitVec.toFin this

@[simp] theorem nField_wordXYN (op : BitVec 4) (x y : Reg) (n : BitVec 4) : nField (wordXYN op x y n) = n := by
  unfold nField wordXYN
  apply BitVec.eq_of_getLsbD_eq
  intro k hk
  rw [BitVec.getLsbD_extractLsb', BitVec.getLsbD_append (n := 4 + 4 + 4) (m := 4)]
  simp [hk]

/-- A word is its `op`, `X` and `NN` (R92). -/
theorem wordXI_fields (w : Word) : wordXI (opField w) (xField w) (nnField w) = w := by
  have hx : regBits (xField w) = w.extractLsb' 8 4 := rfl
  unfold wordXI opField nnField
  rw [hx]
  apply BitVec.eq_of_getLsbD_eq
  intro k hk
  rw [BitVec.getLsbD_append (n := 4 + 4) (m := 8), BitVec.getLsbD_append (n := 4) (m := 4)]
  simp only [BitVec.getLsbD_extractLsb', Nat.zero_add]
  by_cases h : k < 8
  · simp [h]
  · by_cases h2 : k - 8 < 4
    · simp [h, h2, show 8 + (k - 8) = k by omega]
    · simp [h, h2, show 12 + (k - 8 - 4) = k by omega]; omega

/-- A word is its `op`, `X`, `Y` and `N` (R92). -/
theorem wordXYN_fields (w : Word) : wordXYN (opField w) (xField w) (yField w) (nField w) = w := by
  have hx : regBits (xField w) = w.extractLsb' 8 4 := rfl
  have hy : regBits (yField w) = w.extractLsb' 4 4 := rfl
  unfold wordXYN opField nField
  rw [hx, hy]
  apply BitVec.eq_of_getLsbD_eq
  intro k hk
  rw [BitVec.getLsbD_append (n := 4 + 4 + 4) (m := 4), BitVec.getLsbD_append (n := 4 + 4) (m := 4),
    BitVec.getLsbD_append (n := 4) (m := 4)]
  simp only [BitVec.getLsbD_extractLsb', Nat.zero_add]
  by_cases h : k < 4
  · simp [h]
  · by_cases h2 : k - 4 < 4
    · simp [h, h2, show 4 + (k - 4) = k by omega]
    · by_cases h3 : k - 4 - 4 < 4
      · simp [h, h2, h3, show 8 + (k - 4 - 4) = k by omega]
      · simp [h, h2, h3, show 12 + (k - 4 - 4 - 4) = k by omega]; omega

/-- A word is its two bytes, high byte first (R62). -/
theorem hiByte_append_loByte (w : Word) : (hiByte w ++ loByte w : BitVec (8 + 8)) = w := by
  unfold hiByte loByte
  apply BitVec.eq_of_getLsbD_eq
  intro k hk
  rw [BitVec.getLsbD_append (n := 8) (m := 8)]
  simp only [BitVec.getLsbD_extractLsb', Nat.zero_add]
  by_cases h : k < 8
  · simp [h]
  · simp [h, show 8 + (k - 8) = k by omega]; omega

/-- Decoding the bytes of a word is decoding the word. -/
theorem decodeBytes_wordBytes (w : Word) (rest : List Byte) :
    decodeBytes (wordBytes w ++ rest) = (decode w).map (·, rest) := by
  simp only [wordBytes, List.cons_append, List.nil_append, decodeBytes]
  rw [show (hiByte w ++ loByte w : Word) = w from hiByte_append_loByte w]

end Sys2Proof
end

