-- ==== Sys2Proof/Laws/Display.lean ====
section
/-! SUPPORT. What the drawing engine does, pixel by pixel (spec/44_display.md R210, R211, R215): one lemma for the framebuffer
and one for the collision, at each level: a bit, a row, a sprite. -/

namespace Sys2Proof.Machine

open Screen

/-- The screen is a torus (R210). -/
theorem pixel_mod (fb : Screen) (y x : Nat) : pixel fb (y % 32) (x % 64) = pixel fb y x := by
  simp [pixel]

/-- A flip changes its own pixel and no other. -/
theorem pixel_flip (fb : Screen) (y x y' x' : Nat) :
    pixel (Screen.flip fb y x) y' x' = (pixel fb y' x' ^^ decide (y' % 32 = y % 32 ∧ x' % 64 = x % 64)) := by
  unfold pixel Screen.flip
  simp only [Config.fbHeight, Config.fbWidth, Vector.getElem_set]
  by_cases hy : y' % 32 = y % 32
  · by_cases hx : x' % 64 = x % 64
    · simp [hy, hx, Nat.mod_lt]
    · simp [hy, hx, BitVec.getLsbD_twoPow, Ne.symm hx]
  · simp [hy, Ne.symm hy]

/-- What a sprite bit does to the framebuffer. -/
theorem drawBit_pixel (y x : Nat) (lit : Bool) (c : Canvas) (y' x' : Nat) :
    pixel (drawBit y x lit c).fb y' x' =
      (pixel c.fb y' x' ^^ (lit && decide (y' % 32 = y % 32 ∧ x' % 64 = x % 64))) := by
  cases lit
  · simp [drawBit]
  · simp [drawBit, pixel_flip]

/-- What a sprite bit does to the collision. -/
theorem drawBit_hit (y x : Nat) (lit : Bool) (c : Canvas) :
    (drawBit y x lit c).hit = (c.hit || (lit && pixel c.fb y x)) := by
  cases lit <;> simp [drawBit]

/-- The first `n` columns of a sprite row. -/
def drawCols (y x0 : Nat) (b : Byte) (n : Nat) (c : Canvas) : Canvas :=
  (List.range n).foldl (fun c col => drawBit y (x0 + col) (b.getLsbD (7 - col)) c) c

theorem drawRow_eq_drawCols (y x0 : Nat) (b : Byte) (c : Canvas) : drawRow y x0 b c = drawCols y x0 b 8 c := rfl

theorem drawCols_succ (y x0 : Nat) (b : Byte) (n : Nat) (c : Canvas) :
    drawCols y x0 b (n + 1) c = drawBit y (x0 + n) (b.getLsbD (7 - n)) (drawCols y x0 b n c) := by
  simp [drawCols, List.range_succ]

/-- Some one of the first `n` columns of a sprite row is a 1 on column `x'`. -/
abbrev colLit (x0 : Nat) (b : Byte) (n x' : Nat) : Prop :=
  ∃ col, col < n ∧ b.getLsbD (7 - col) = true ∧ x' % 64 = (x0 + col) % 64

theorem drawCols_pixel (y x0 : Nat) (b : Byte) (c : Canvas) (y' x' : Nat) : ∀ n, n ≤ 8 →
    pixel (drawCols y x0 b n c).fb y' x' = (pixel c.fb y' x' ^^ decide (y' % 32 = y % 32 ∧ colLit x0 b n x')) := by
  intro n
  induction n with
  | zero => intro _; simp [drawCols, colLit]
  | succ n ih =>
    intro hn
    rw [drawCols_succ, drawBit_pixel, ih (by omega), Bool.xor_assoc]
    congr 1
    by_cases hy : y' % 32 = y % 32
    · by_cases hx : x' % 64 = (x0 + n) % 64
      · have hno : ¬ colLit x0 b n x' := by
          rintro ⟨col, h1, -, h3⟩
          omega
        have hiff : colLit x0 b (n + 1) x' ↔ b.getLsbD (7 - n) = true := by
          constructor
          · rintro ⟨col, h1, h2, h3⟩
            obtain rfl : col = n := by omega
            exact h2
          · intro h
            exact ⟨n, by omega, h, hx⟩
        rw [decide_eq_false fun h => hno h.2, Bool.false_xor]
        simp [hy, hx, hiff]
      · have hiff : colLit x0 b (n + 1) x' ↔ colLit x0 b n x' := by
          constructor
          · rintro ⟨col, h1, h2, h3⟩
            have : col ≠ n := by rintro rfl; exact hx h3
            exact ⟨col, by omega, h2, h3⟩
          · rintro ⟨col, h1, h2, h3⟩
            exact ⟨col, by omega, h2, h3⟩
        simp [hx, hiff]
    · simp [hy]

theorem drawCols_hit (y x0 : Nat) (b : Byte) (c : Canvas) : ∀ n, n ≤ 8 →
    ((drawCols y x0 b n c).hit = true ↔
      c.hit = true ∨ ∃ col, col < n ∧ b.getLsbD (7 - col) = true ∧ pixel c.fb y (x0 + col) = true) := by
  intro n
  induction n with
  | zero => intro _; simp [drawCols]
  | succ n ih =>
    intro hn
    have hp : pixel (drawCols y x0 b n c).fb y (x0 + n) = pixel c.fb y (x0 + n) := by
      rw [drawCols_pixel _ _ _ _ _ _ n (by omega)]
      have : ¬ colLit x0 b n (x0 + n) := by
        rintro ⟨col, h1, -, h3⟩
        omega
      simp [this]
    rw [drawCols_succ, drawBit_hit, Bool.or_eq_true, ih (by omega), Bool.and_eq_true, hp]
    constructor
    · rintro ((h | ⟨col, h1, h2⟩) | h)
      · exact .inl h
      · exact .inr ⟨col, by omega, h2⟩
      · exact .inr ⟨n, by omega, h⟩
    · rintro (h | ⟨col, h1, h2⟩)
      · exact .inl (.inl h)
      · by_cases hc : col = n
        · subst hc; exact .inr h2
        · exact .inl (.inr ⟨col, by omega, h2⟩)

/-- What a sprite row does to the framebuffer. -/
theorem drawRow_pixel (y x0 : Nat) (b : Byte) (c : Canvas) (y' x' : Nat) :
    pixel (drawRow y x0 b c).fb y' x' = (pixel c.fb y' x' ^^ decide (y' % 32 = y % 32 ∧ colLit x0 b 8 x')) :=
  drawCols_pixel y x0 b c y' x' 8 (by omega)

/-- What a sprite row does to the collision. -/
theorem drawRow_hit (y x0 : Nat) (b : Byte) (c : Canvas) :
    (drawRow y x0 b c).hit = true ↔
      c.hit = true ∨ ∃ col, col < 8 ∧ b.getLsbD (7 - col) = true ∧ pixel c.fb y (x0 + col) = true :=
  drawCols_hit y x0 b c 8 (by omega)

/-- Some row of the sprite has a 1 on pixel `(y', x')`. -/
abbrev spriteLit (x0 y0 : Nat) (bs : List Byte) (y' x' : Nat) : Prop :=
  ∃ row, row < bs.length ∧ y' % 32 = (y0 + row) % 32 ∧ colLit x0 (bs.getD row 0) 8 x'

theorem spriteLit_cons (x0 y0 : Nat) (b : Byte) (bs : List Byte) (y' x' : Nat) :
    spriteLit x0 y0 (b :: bs) y' x' ↔
      (y' % 32 = y0 % 32 ∧ colLit x0 b 8 x') ∨ spriteLit x0 (y0 + 1) bs y' x' := by
  constructor
  · rintro ⟨row, h1, h2, h3⟩
    cases row with
    | zero => exact .inl ⟨h2, by simpa using h3⟩
    | succ row =>
      simp only [List.length_cons] at h1
      exact .inr ⟨row, by omega, by rw [h2]; congr 1; omega, by simpa using h3⟩
  · rintro (⟨h1, h2⟩ | ⟨row, h1, h2, h3⟩)
    · exact ⟨0, by simp, h1, by simpa using h2⟩
    · exact ⟨row + 1, by simp; omega, by rw [h2]; congr 1; omega, by simpa using h3⟩

/-- What a sprite of at most 32 rows does to the framebuffer: no pixel is met twice, so each pixel under a 1 is flipped
once (R215). -/
theorem drawRows_pixel (x0 : Nat) (bs : List Byte) (y' x' : Nat) : ∀ (y0 : Nat) (c : Canvas), bs.length ≤ 32 →
    pixel (drawRows x0 y0 bs c).fb y' x' = (pixel c.fb y' x' ^^ decide (spriteLit x0 y0 bs y' x')) := by
  induction bs with
  | nil => intro y0 c _; simp [drawRows, spriteLit]
  | cons b bs ih =>
    intro y0 c hl
    simp only [List.length_cons] at hl
    rw [drawRows, ih (y0 + 1) _ (by omega), drawRow_pixel, Bool.xor_assoc]
    congr 1
    by_cases hA : y' % 32 = y0 % 32 ∧ colLit x0 b 8 x'
    · have hB : ¬ spriteLit x0 (y0 + 1) bs y' x' := by
        rintro ⟨row, h1, h2, -⟩
        have := hA.1
        omega
      rw [decide_eq_true hA, decide_eq_false hB, decide_eq_true ((spriteLit_cons ..).mpr (.inl hA))]
      rfl
    · rw [decide_eq_false hA, Bool.false_xor]
      have : spriteLit x0 y0 (b :: bs) y' x' ↔ spriteLit x0 (y0 + 1) bs y' x' := by
        rw [spriteLit_cons]; exact or_iff_right hA
      exact (decide_eq_decide.mpr this).symm

/-- What a sprite of at most 32 rows does to the collision: it is the OR over the sprite's 1 bits of the pixels as they
were (R215). -/
theorem drawRows_hit (x0 : Nat) (bs : List Byte) : ∀ (y0 : Nat) (c : Canvas), bs.length ≤ 32 →
    ((drawRows x0 y0 bs c).hit = true ↔ c.hit = true ∨ ∃ row, row < bs.length ∧ ∃ col, col < 8 ∧
      (bs.getD row 0).getLsbD (7 - col) = true ∧ pixel c.fb (y0 + row) (x0 + col) = true) := by
  induction bs with
  | nil => intro y0 c _; simp [drawRows]
  | cons b bs ih =>
    intro y0 c hl
    simp only [List.length_cons] at hl
    have hrow : ∀ row, row < bs.length → ∀ col,
        pixel (drawRow y0 x0 b c).fb (y0 + 1 + row) (x0 + col) = pixel c.fb (y0 + 1 + row) (x0 + col) := by
      intro row hr col
      rw [drawRow_pixel, decide_eq_false (by rintro ⟨h, -⟩; omega), Bool.xor_false]
    rw [drawRows, ih (y0 + 1) _ (by omega), drawRow_hit]
    constructor
    · rintro ((h | ⟨col, h1, h2⟩) | ⟨row, h1, col, h2, h3, h4⟩)
      · exact .inl h
      · exact .inr ⟨0, by simp, col, h1, by simpa using h2⟩
      · rw [hrow row h1] at h4
        refine .inr ⟨row + 1, by simp; omega, col, h2, by simpa using h3, ?_⟩
        rw [show y0 + (row + 1) = y0 + 1 + row by omega]; exact h4
    · rintro (h | ⟨row, h1, col, h2, h3, h4⟩)
      · exact .inl (.inl h)
      · cases row with
        | zero => exact .inl (.inr ⟨col, h2, by simpa using h3, by simpa using h4⟩)
        | succ row =>
          simp only [List.length_cons] at h1
          refine .inr ⟨row, by omega, col, h2, by simpa using h3, ?_⟩
          rw [hrow row (by omega), show y0 + 1 + row = y0 + (row + 1) by omega]; exact h4

end Sys2Proof.Machine
end

