-- ==== Sys2Proof/Laws/Memory.lean ====
section
/-! SUPPORT. The laws of memory: a read after a write, the canonical form kept by every operation, and that two memories in
canonical form that read alike are equal (spec/20_memory.md R60 to R77). -/

namespace Sys2Proof.Machine.Memory

/-- An address above 0x04F reads as 0 after reset (R68). -/
theorem initial_of_ge {a : Nat} (h : 80 ≤ a) : initial a = 0 := by
  have : Config.font.length = 80 := by decide
  simp [initial, List.getElem?_eq_none (l := Config.font) (i := a) (by omega)]

@[simp] theorem read_nil (a : Nat) : read [] a = initial a := rfl

theorem read_entry (k : Nat) (b : Byte) (m : Memory) (a : Nat) :
    read ((k, b) :: m) a = if k = a then b else read m a := rfl

/-- A memory that lists only addresses above `a` reads at `a` as after reset. -/
theorem read_of_lt {m : Memory} {a : Nat} (h : ∀ c ∈ m, a < c.1) : read m a = initial a := by
  induction m with
  | nil => rfl
  | cons c m ih =>
    obtain ⟨k, b⟩ := c
    have hk : a < k := h (k, b) (by simp)
    rw [read_entry, if_neg (by omega), ih fun c hc => h c (by simp [hc])]

/-- Listing an entry in front of higher ones. -/
theorem read_cons {m : Memory} {k : Nat} (b : Byte) (h : ∀ c ∈ m, k < c.1) (a : Nat) :
    read (cons k b m) a = if a = k then b else read m a := by
  unfold cons
  by_cases hb : b = initial k
  · rw [if_pos hb]
    by_cases ha : a = k
    · subst ha; rw [if_pos rfl, read_of_lt h, hb]
    · rw [if_neg ha]
  · rw [if_neg hb, read_entry]
    by_cases ha : a = k
    · subst ha; simp
    · rw [if_neg (Ne.symm ha), if_neg ha]

theorem mem_cons {m : Memory} {k : Nat} {b : Byte} {c : Host.Cell} (h : c ∈ cons k b m) :
    (c = (k, b) ∧ b ≠ initial k) ∨ c ∈ m := by
  unfold cons at h
  split at h
  · exact .inr h
  · rename_i hb
    rcases List.mem_cons.mp h with rfl | h
    · exact .inl ⟨rfl, hb⟩
    · exact .inr h

theorem wf_nil : wf [] := by simp [wf]

theorem wf_tail {c : Host.Cell} {m : Memory} (h : wf (c :: m)) : wf m :=
  ⟨(List.pairwise_cons.mp h.1).2, fun d hd => h.2 d (by simp [hd])⟩

theorem wf_head {c : Host.Cell} {m : Memory} (h : wf (c :: m)) : ∀ d ∈ m, c.1 < d.1 :=
  (List.pairwise_cons.mp h.1).1

/-- `cons` keeps the canonical form. -/
theorem cons_wf {m : Memory} {a : Nat} (b : Byte) (hm : wf m) (ha : a < Config.memSize) (h : ∀ c ∈ m, a < c.1) :
    wf (cons a b m) := by
  unfold cons
  split
  · exact hm
  · rename_i hb
    refine ⟨List.pairwise_cons.mpr ⟨h, hm.1⟩, ?_⟩
    intro c hc
    rcases List.mem_cons.mp hc with rfl | hc
    · exact ⟨ha, hb⟩
    · exact hm.2 c hc

/-- What a write lists: the written address, or an entry that was listed. -/
theorem mem_write {a : Nat} {b : Byte} {m : Memory} {c : Host.Cell} (h : c ∈ write a b m) : c.1 = a ∨ c ∈ m := by
  induction m with
  | nil =>
    rcases mem_cons (m := []) h with ⟨rfl, _⟩ | h
    · exact .inl rfl
    · exact .inr h
  | cons d m ih =>
    obtain ⟨k, e⟩ := d
    unfold write at h
    split at h
    · rcases mem_cons h with ⟨rfl, _⟩ | h
      · exact .inl rfl
      · exact .inr h
    · split at h
      · rcases mem_cons h with ⟨rfl, _⟩ | h
        · exact .inl rfl
        · exact .inr (by simp [h])
      · rcases List.mem_cons.mp h with rfl | h
        · exact .inr (by simp)
        · rcases ih h with h | h
          · exact .inl h
          · exact .inr (by simp [h])

/-- A write keeps the canonical form. -/
theorem write_wf {a : Nat} (b : Byte) {m : Memory} (ha : a < Config.memSize) (hm : wf m) : wf (write a b m) := by
  induction m with
  | nil => exact cons_wf b wf_nil ha (by simp)
  | cons d m ih =>
    obtain ⟨k, e⟩ := d
    have hk := wf_head hm
    unfold write
    split
    · rename_i hlt
      refine cons_wf b hm ha ?_
      intro c hc
      rcases List.mem_cons.mp hc with rfl | hc
      · exact hlt
      · exact lt_trans hlt (hk c hc)
    · split
      · rename_i heq
        subst heq
        exact cons_wf b (wf_tail hm) ha hk
      · rename_i h1 h2
        have hw := ih (wf_tail hm)
        refine ⟨List.pairwise_cons.mpr ⟨?_, hw.1⟩, ?_⟩
        · intro c hc
          rcases mem_write hc with h | h
          · simp only; omega
          · exact hk c h
        · intro c hc
          rcases List.mem_cons.mp hc with rfl | hc
          · exact hm.2 _ (by simp)
          · exact hw.2 c hc

/-- A read after a write: the written byte at the written address, the old byte anywhere else (R71). -/
theorem read_write (a : Nat) (b : Byte) {m : Memory} (hm : wf m) (x : Nat) :
    read (write a b m) x = if x = a then b else read m x := by
  induction m with
  | nil => exact read_cons b (by simp) x
  | cons d m ih =>
    obtain ⟨k, e⟩ := d
    have hk := wf_head hm
    unfold write
    split
    · rename_i hlt
      refine read_cons b ?_ x
      intro c hc
      rcases List.mem_cons.mp hc with rfl | hc
      · exact hlt
      · exact lt_trans hlt (hk c hc)
    · split
      · rename_i heq
        subst heq
        rw [read_cons b hk, read_entry]
        by_cases hx : x = a
        · simp [hx]
        · simp [hx, Ne.symm hx]
      · rename_i h1 h2
        rw [read_entry, read_entry, ih (wf_tail hm)]
        by_cases hx : k = x
        · subst hx; simp [Ne.symm h2]
        · simp [hx]

/-- A write of several bytes keeps the canonical form (R63, R77). -/
theorem writeBytes_wf {bs : List Byte} : ∀ {a : Nat} {m : Memory}, a + bs.length ≤ Config.memSize → wf m →
    wf (writeBytes a bs m) := by
  induction bs with
  | nil => intro a m _ hm; exact hm
  | cons b bs ih =>
    intro a m ha hm
    simp only [List.length_cons] at ha
    exact ih (by omega) (write_wf b (by omega) hm)

/-- A read after a write of several bytes: byte `k` at address `a + k`, the old byte outside (R63). -/
theorem read_writeBytes {bs : List Byte} : ∀ {a : Nat} {m : Memory}, a + bs.length ≤ Config.memSize → wf m → ∀ x,
    read (writeBytes a bs m) x = if a ≤ x ∧ x < a + bs.length then bs.getD (x - a) 0 else read m x := by
  induction bs with
  | nil => intro a m _ _ x; simp [writeBytes]
  | cons b bs ih =>
    intro a m ha hm x
    simp only [List.length_cons] at ha ⊢
    rw [writeBytes, ih (by omega) (write_wf b (by omega) hm), read_write a b hm]
    by_cases h1 : x = a
    · subst h1; simp
    · by_cases h2 : a + 1 ≤ x ∧ x < a + 1 + bs.length
      · rw [if_pos h2, if_pos (by omega)]
        obtain ⟨k, rfl⟩ : ∃ k, x = a + 1 + k := ⟨x - (a + 1), by omega⟩
        rw [show a + 1 + k - (a + 1) = k by omega, show a + 1 + k - a = k + 1 by omega]
        simp
      · rw [if_neg h2, if_neg h1, if_neg (by omega)]

theorem readBytes_length (m : Memory) : ∀ (n a : Nat), (m.readBytes a n).length = n := by
  intro n
  induction n with
  | zero => intro a; rfl
  | succ n ih => intro a; simp [readBytes, ih]

/-- The bytes of a read, one by one. -/
theorem getD_readBytes (m : Memory) : ∀ (n a k : Nat), k < n → (m.readBytes a n).getD k 0 = m.read (a + k) := by
  intro n
  induction n with
  | zero => intro a k h; omega
  | succ n ih =>
    intro a k h
    cases k with
    | zero => simp [readBytes]
    | succ k =>
      have := ih (a + 1) k (by omega)
      simp only [readBytes, List.getD_cons_succ, this]
      congr 1; omega

/-- Every entry of an image lies at or above its base. -/
theorem mem_image {bs : List Byte} : ∀ {a : Nat} {c : Host.Cell}, c ∈ image a bs → a ≤ c.1 := by
  induction bs with
  | nil => intro a c h; simp [image] at h
  | cons b bs ih =>
    intro a c h
    rcases mem_cons h with ⟨rfl, _⟩ | h
    · exact le_refl _
    · have := ih h; omega

/-- The image a load leaves is in canonical form (R290). -/
theorem image_wf {bs : List Byte} : ∀ {a : Nat}, a + bs.length ≤ Config.memSize → wf (image a bs) := by
  induction bs with
  | nil => intro a _; exact wf_nil
  | cons b bs ih =>
    intro a ha
    simp only [List.length_cons] at ha
    exact cons_wf b (ih (by omega)) (by omega) fun c hc => by have := mem_image hc; omega

/-- What the image a load leaves reads as: the ROM byte at its place, the reset content outside (R291, R293). -/
theorem read_image {bs : List Byte} : ∀ {a : Nat} (x : Nat),
    read (image a bs) x = if a ≤ x ∧ x < a + bs.length then bs.getD (x - a) 0 else initial x := by
  induction bs with
  | nil => intro a x; simp [image]
  | cons b bs ih =>
    intro a x
    simp only [List.length_cons]
    rw [image, read_cons b (fun c hc => by have := mem_image hc; omega), ih]
    by_cases h1 : x = a
    · subst h1; simp
    · by_cases h2 : a + 1 ≤ x ∧ x < a + 1 + bs.length
      · rw [if_neg h1, if_pos h2, if_pos (by omega)]
        obtain ⟨k, rfl⟩ : ∃ k, x = a + 1 + k := ⟨x - (a + 1), by omega⟩
        rw [show a + 1 + k - (a + 1) = k by omega, show a + 1 + k - a = k + 1 by omega]
        simp
      · rw [if_neg h1, if_neg h2, if_neg (by omega)]

/-- The canonical form is canonical: two memories in it that read alike are equal. -/
theorem wf_ext : ∀ {m n : Memory}, wf m → wf n → (∀ a, read m a = read n a) → m = n := by
  intro m
  induction m with
  | nil =>
    intro n _ hn h
    cases n with
    | nil => rfl
    | cons d n =>
      have := h d.1
      rw [read_nil, show d = (d.1, d.2) from rfl, read_entry, if_pos rfl] at this
      exact absurd this.symm (hn.2 d (by simp)).2
  | cons c m ih =>
    intro n hm hn h
    cases n with
    | nil =>
      have := h c.1
      rw [read_nil, show c = (c.1, c.2) from rfl, read_entry, if_pos rfl] at this
      exact absurd this (hm.2 c (by simp)).2
    | cons d n =>
      obtain ⟨k, b⟩ := c
      obtain ⟨l, e⟩ := d
      have hkm := wf_head hm
      have hln := wf_head hn
      have hkl : k = l := by
        by_contra hne
        rcases Nat.lt_or_gt_of_ne hne with hlt | hgt
        · have hk := h k
          rw [read_entry, if_pos rfl, read_of_lt (m := (l, e) :: n)] at hk
          · exact (hm.2 (k, b) (by simp)).2 hk
          · intro c hc
            rcases List.mem_cons.mp hc with rfl | hc
            · exact hlt
            · exact lt_trans hlt (hln c hc)
        · have hl := h l
          rw [read_entry (k := l), if_pos rfl, read_of_lt (m := (k, b) :: m)] at hl
          · exact (hn.2 (l, e) (by simp)).2 hl.symm
          · intro c hc
            rcases List.mem_cons.mp hc with rfl | hc
            · exact hgt
            · exact lt_trans hgt (hkm c hc)
      subst hkl
      have hbe : b = e := by simpa [read_entry] using h k
      subst hbe
      have : m = n := by
        refine ih (wf_tail hm) (wf_tail hn) ?_
        intro a
        by_cases ha : k = a
        · subst ha; rw [read_of_lt hkm, read_of_lt hln]
        · simpa [read_entry, ha] using h a
      rw [this]

end Sys2Proof.Machine.Memory
end

