-- ==== Sys2Proof/Laws/State.lean ====
section
/-! SUPPORT. One lemma per field per update, each true by `rfl`, so that no later proof unfolds a record update; then the
readers (`reg`, `byteAt`, `pixel`, `sp`) through every update. -/

namespace Sys2Proof.Machine.State

variable (s : State)

/-! ## setReg -/

@[simp] theorem setReg_mem (x : Reg) (b : Byte) : (s.setReg x b).mem = s.mem := rfl
@[simp] theorem setReg_pc (x : Reg) (b : Byte) : (s.setReg x b).pc = s.pc := rfl
@[simp] theorem setReg_programEnd (x : Reg) (b : Byte) : (s.setReg x b).programEnd = s.programEnd := rfl
@[simp] theorem setReg_v (x : Reg) (b : Byte) : (s.setReg x b).v = s.v.set x b := rfl
@[simp] theorem setReg_i (x : Reg) (b : Byte) : (s.setReg x b).i = s.i := rfl
@[simp] theorem setReg_stack (x : Reg) (b : Byte) : (s.setReg x b).stack = s.stack := rfl
@[simp] theorem setReg_dt (x : Reg) (b : Byte) : (s.setReg x b).dt = s.dt := rfl
@[simp] theorem setReg_st (x : Reg) (b : Byte) : (s.setReg x b).st = s.st := rfl
@[simp] theorem setReg_fb (x : Reg) (b : Byte) : (s.setReg x b).fb = s.fb := rfl
@[simp] theorem setReg_dirty (x : Reg) (b : Byte) : (s.setReg x b).dirty = s.dirty := rfl
@[simp] theorem setReg_fault (x : Reg) (b : Byte) : (s.setReg x b).fault = s.fault := rfl
@[simp] theorem setReg_env (x : Reg) (b : Byte) : (s.setReg x b).env = s.env := rfl
@[simp] theorem byteAt_setReg (x : Reg) (b : Byte) (adr : Nat) : (s.setReg x b).byteAt adr = s.byteAt adr := rfl
@[simp] theorem bytesAt_setReg (x : Reg) (b : Byte) (adr len : Nat) : (s.setReg x b).bytesAt adr len = s.bytesAt adr len := rfl
@[simp] theorem pixel_setReg (x : Reg) (b : Byte) (y : Fin 32) (x' : Fin 64) : (s.setReg x b).pixel y x' = s.pixel y x' := rfl
@[simp] theorem sp_setReg (x : Reg) (b : Byte) : (s.setReg x b).sp = s.sp := rfl
@[simp] theorem rndByte_setReg (x : Reg) (b : Byte) : (s.setReg x b).rndByte = s.rndByte := rfl

/-! ## loadRegs -/

@[simp] theorem loadRegs_mem (base : Nat) (x : Reg) : (s.loadRegs base x).mem = s.mem := rfl
@[simp] theorem loadRegs_pc (base : Nat) (x : Reg) : (s.loadRegs base x).pc = s.pc := rfl
@[simp] theorem loadRegs_programEnd (base : Nat) (x : Reg) : (s.loadRegs base x).programEnd = s.programEnd := rfl
@[simp] theorem loadRegs_v (base : Nat) (x : Reg) : (s.loadRegs base x).v = Vector.ofFn fun k : Reg => if k ≤ x then s.mem.read (base + k.val) else s.reg k := rfl
@[simp] theorem loadRegs_i (base : Nat) (x : Reg) : (s.loadRegs base x).i = s.i := rfl
@[simp] theorem loadRegs_stack (base : Nat) (x : Reg) : (s.loadRegs base x).stack = s.stack := rfl
@[simp] theorem loadRegs_dt (base : Nat) (x : Reg) : (s.loadRegs base x).dt = s.dt := rfl
@[simp] theorem loadRegs_st (base : Nat) (x : Reg) : (s.loadRegs base x).st = s.st := rfl
@[simp] theorem loadRegs_fb (base : Nat) (x : Reg) : (s.loadRegs base x).fb = s.fb := rfl
@[simp] theorem loadRegs_dirty (base : Nat) (x : Reg) : (s.loadRegs base x).dirty = s.dirty := rfl
@[simp] theorem loadRegs_fault (base : Nat) (x : Reg) : (s.loadRegs base x).fault = s.fault := rfl
@[simp] theorem loadRegs_env (base : Nat) (x : Reg) : (s.loadRegs base x).env = s.env := rfl
@[simp] theorem byteAt_loadRegs (base : Nat) (x : Reg) (adr : Nat) : (s.loadRegs base x).byteAt adr = s.byteAt adr := rfl
@[simp] theorem bytesAt_loadRegs (base : Nat) (x : Reg) (adr len : Nat) : (s.loadRegs base x).bytesAt adr len = s.bytesAt adr len := rfl
@[simp] theorem pixel_loadRegs (base : Nat) (x : Reg) (y : Fin 32) (x' : Fin 64) : (s.loadRegs base x).pixel y x' = s.pixel y x' := rfl
@[simp] theorem sp_loadRegs (base : Nat) (x : Reg) : (s.loadRegs base x).sp = s.sp := rfl
@[simp] theorem rndByte_loadRegs (base : Nat) (x : Reg) : (s.loadRegs base x).rndByte = s.rndByte := rfl

/-! ## storeBytes -/

@[simp] theorem storeBytes_mem (a : Nat) (bs : List Byte) : (s.storeBytes a bs).mem = s.mem.writeBytes a bs := rfl
@[simp] theorem storeBytes_pc (a : Nat) (bs : List Byte) : (s.storeBytes a bs).pc = s.pc := rfl
@[simp] theorem storeBytes_programEnd (a : Nat) (bs : List Byte) : (s.storeBytes a bs).programEnd = s.programEnd := rfl
@[simp] theorem storeBytes_v (a : Nat) (bs : List Byte) : (s.storeBytes a bs).v = s.v := rfl
@[simp] theorem storeBytes_i (a : Nat) (bs : List Byte) : (s.storeBytes a bs).i = s.i := rfl
@[simp] theorem storeBytes_stack (a : Nat) (bs : List Byte) : (s.storeBytes a bs).stack = s.stack := rfl
@[simp] theorem storeBytes_dt (a : Nat) (bs : List Byte) : (s.storeBytes a bs).dt = s.dt := rfl
@[simp] theorem storeBytes_st (a : Nat) (bs : List Byte) : (s.storeBytes a bs).st = s.st := rfl
@[simp] theorem storeBytes_fb (a : Nat) (bs : List Byte) : (s.storeBytes a bs).fb = s.fb := rfl
@[simp] theorem storeBytes_dirty (a : Nat) (bs : List Byte) : (s.storeBytes a bs).dirty = s.dirty := rfl
@[simp] theorem storeBytes_fault (a : Nat) (bs : List Byte) : (s.storeBytes a bs).fault = s.fault := rfl
@[simp] theorem storeBytes_env (a : Nat) (bs : List Byte) : (s.storeBytes a bs).env = s.env := rfl
@[simp] theorem reg_storeBytes (a : Nat) (bs : List Byte) (r : Reg) : (s.storeBytes a bs).reg r = s.reg r := rfl
@[simp] theorem pixel_storeBytes (a : Nat) (bs : List Byte) (y : Fin 32) (x' : Fin 64) : (s.storeBytes a bs).pixel y x' = s.pixel y x' := rfl
@[simp] theorem sp_storeBytes (a : Nat) (bs : List Byte) : (s.storeBytes a bs).sp = s.sp := rfl
@[simp] theorem rndByte_storeBytes (a : Nat) (bs : List Byte) : (s.storeBytes a bs).rndByte = s.rndByte := rfl

/-! ## setPc -/

@[simp] theorem setPc_mem (a : Word) : (s.setPc a).mem = s.mem := rfl
@[simp] theorem setPc_pc (a : Word) : (s.setPc a).pc = a := rfl
@[simp] theorem setPc_programEnd (a : Word) : (s.setPc a).programEnd = s.programEnd := rfl
@[simp] theorem setPc_v (a : Word) : (s.setPc a).v = s.v := rfl
@[simp] theorem setPc_i (a : Word) : (s.setPc a).i = s.i := rfl
@[simp] theorem setPc_stack (a : Word) : (s.setPc a).stack = s.stack := rfl
@[simp] theorem setPc_dt (a : Word) : (s.setPc a).dt = s.dt := rfl
@[simp] theorem setPc_st (a : Word) : (s.setPc a).st = s.st := rfl
@[simp] theorem setPc_fb (a : Word) : (s.setPc a).fb = s.fb := rfl
@[simp] theorem setPc_dirty (a : Word) : (s.setPc a).dirty = s.dirty := rfl
@[simp] theorem setPc_fault (a : Word) : (s.setPc a).fault = s.fault := rfl
@[simp] theorem setPc_env (a : Word) : (s.setPc a).env = s.env := rfl
@[simp] theorem reg_setPc (a : Word) (r : Reg) : (s.setPc a).reg r = s.reg r := rfl
@[simp] theorem byteAt_setPc (a : Word) (adr : Nat) : (s.setPc a).byteAt adr = s.byteAt adr := rfl
@[simp] theorem bytesAt_setPc (a : Word) (adr len : Nat) : (s.setPc a).bytesAt adr len = s.bytesAt adr len := rfl
@[simp] theorem pixel_setPc (a : Word) (y : Fin 32) (x' : Fin 64) : (s.setPc a).pixel y x' = s.pixel y x' := rfl
@[simp] theorem sp_setPc (a : Word) : (s.setPc a).sp = s.sp := rfl
@[simp] theorem rndByte_setPc (a : Word) : (s.setPc a).rndByte = s.rndByte := rfl

/-! ## advance -/

@[simp] theorem advance_mem : (s.advance).mem = s.mem := rfl
@[simp] theorem advance_pc : (s.advance).pc = s.pc + 2 := rfl
@[simp] theorem advance_programEnd : (s.advance).programEnd = s.programEnd := rfl
@[simp] theorem advance_v : (s.advance).v = s.v := rfl
@[simp] theorem advance_i : (s.advance).i = s.i := rfl
@[simp] theorem advance_stack : (s.advance).stack = s.stack := rfl
@[simp] theorem advance_dt : (s.advance).dt = s.dt := rfl
@[simp] theorem advance_st : (s.advance).st = s.st := rfl
@[simp] theorem advance_fb : (s.advance).fb = s.fb := rfl
@[simp] theorem advance_dirty : (s.advance).dirty = s.dirty := rfl
@[simp] theorem advance_fault : (s.advance).fault = s.fault := rfl
@[simp] theorem advance_env : (s.advance).env = s.env := rfl
@[simp] theorem reg_advance (r : Reg) : (s.advance).reg r = s.reg r := rfl
@[simp] theorem byteAt_advance (adr : Nat) : (s.advance).byteAt adr = s.byteAt adr := rfl
@[simp] theorem bytesAt_advance (adr len : Nat) : (s.advance).bytesAt adr len = s.bytesAt adr len := rfl
@[simp] theorem pixel_advance (y : Fin 32) (x' : Fin 64) : (s.advance).pixel y x' = s.pixel y x' := rfl
@[simp] theorem sp_advance : (s.advance).sp = s.sp := rfl
@[simp] theorem rndByte_advance : (s.advance).rndByte = s.rndByte := rfl

/-! ## setI -/

@[simp] theorem setI_mem (a : Word) : (s.setI a).mem = s.mem := rfl
@[simp] theorem setI_pc (a : Word) : (s.setI a).pc = s.pc := rfl
@[simp] theorem setI_programEnd (a : Word) : (s.setI a).programEnd = s.programEnd := rfl
@[simp] theorem setI_v (a : Word) : (s.setI a).v = s.v := rfl
@[simp] theorem setI_i (a : Word) : (s.setI a).i = a := rfl
@[simp] theorem setI_stack (a : Word) : (s.setI a).stack = s.stack := rfl
@[simp] theorem setI_dt (a : Word) : (s.setI a).dt = s.dt := rfl
@[simp] theorem setI_st (a : Word) : (s.setI a).st = s.st := rfl
@[simp] theorem setI_fb (a : Word) : (s.setI a).fb = s.fb := rfl
@[simp] theorem setI_dirty (a : Word) : (s.setI a).dirty = s.dirty := rfl
@[simp] theorem setI_fault (a : Word) : (s.setI a).fault = s.fault := rfl
@[simp] theorem setI_env (a : Word) : (s.setI a).env = s.env := rfl
@[simp] theorem reg_setI (a : Word) (r : Reg) : (s.setI a).reg r = s.reg r := rfl
@[simp] theorem byteAt_setI (a : Word) (adr : Nat) : (s.setI a).byteAt adr = s.byteAt adr := rfl
@[simp] theorem bytesAt_setI (a : Word) (adr len : Nat) : (s.setI a).bytesAt adr len = s.bytesAt adr len := rfl
@[simp] theorem pixel_setI (a : Word) (y : Fin 32) (x' : Fin 64) : (s.setI a).pixel y x' = s.pixel y x' := rfl
@[simp] theorem sp_setI (a : Word) : (s.setI a).sp = s.sp := rfl
@[simp] theorem rndByte_setI (a : Word) : (s.setI a).rndByte = s.rndByte := rfl

/-! ## push -/

@[simp] theorem push_mem (a : Word) : (s.push a).mem = s.mem := rfl
@[simp] theorem push_pc (a : Word) : (s.push a).pc = s.pc := rfl
@[simp] theorem push_programEnd (a : Word) : (s.push a).programEnd = s.programEnd := rfl
@[simp] theorem push_v (a : Word) : (s.push a).v = s.v := rfl
@[simp] theorem push_i (a : Word) : (s.push a).i = s.i := rfl
@[simp] theorem push_stack (a : Word) : (s.push a).stack = s.stack ++ [a] := rfl
@[simp] theorem push_dt (a : Word) : (s.push a).dt = s.dt := rfl
@[simp] theorem push_st (a : Word) : (s.push a).st = s.st := rfl
@[simp] theorem push_fb (a : Word) : (s.push a).fb = s.fb := rfl
@[simp] theorem push_dirty (a : Word) : (s.push a).dirty = s.dirty := rfl
@[simp] theorem push_fault (a : Word) : (s.push a).fault = s.fault := rfl
@[simp] theorem push_env (a : Word) : (s.push a).env = s.env := rfl
@[simp] theorem reg_push (a : Word) (r : Reg) : (s.push a).reg r = s.reg r := rfl
@[simp] theorem byteAt_push (a : Word) (adr : Nat) : (s.push a).byteAt adr = s.byteAt adr := rfl
@[simp] theorem bytesAt_push (a : Word) (adr len : Nat) : (s.push a).bytesAt adr len = s.bytesAt adr len := rfl
@[simp] theorem pixel_push (a : Word) (y : Fin 32) (x' : Fin 64) : (s.push a).pixel y x' = s.pixel y x' := rfl
@[simp] theorem rndByte_push (a : Word) : (s.push a).rndByte = s.rndByte := rfl

/-! ## setStack -/

@[simp] theorem setStack_mem (l : List Word) : (s.setStack l).mem = s.mem := rfl
@[simp] theorem setStack_pc (l : List Word) : (s.setStack l).pc = s.pc := rfl
@[simp] theorem setStack_programEnd (l : List Word) : (s.setStack l).programEnd = s.programEnd := rfl
@[simp] theorem setStack_v (l : List Word) : (s.setStack l).v = s.v := rfl
@[simp] theorem setStack_i (l : List Word) : (s.setStack l).i = s.i := rfl
@[simp] theorem setStack_stack (l : List Word) : (s.setStack l).stack = l := rfl
@[simp] theorem setStack_dt (l : List Word) : (s.setStack l).dt = s.dt := rfl
@[simp] theorem setStack_st (l : List Word) : (s.setStack l).st = s.st := rfl
@[simp] theorem setStack_fb (l : List Word) : (s.setStack l).fb = s.fb := rfl
@[simp] theorem setStack_dirty (l : List Word) : (s.setStack l).dirty = s.dirty := rfl
@[simp] theorem setStack_fault (l : List Word) : (s.setStack l).fault = s.fault := rfl
@[simp] theorem setStack_env (l : List Word) : (s.setStack l).env = s.env := rfl
@[simp] theorem reg_setStack (l : List Word) (r : Reg) : (s.setStack l).reg r = s.reg r := rfl
@[simp] theorem byteAt_setStack (l : List Word) (adr : Nat) : (s.setStack l).byteAt adr = s.byteAt adr := rfl
@[simp] theorem bytesAt_setStack (l : List Word) (adr len : Nat) : (s.setStack l).bytesAt adr len = s.bytesAt adr len := rfl
@[simp] theorem pixel_setStack (l : List Word) (y : Fin 32) (x' : Fin 64) : (s.setStack l).pixel y x' = s.pixel y x' := rfl
@[simp] theorem rndByte_setStack (l : List Word) : (s.setStack l).rndByte = s.rndByte := rfl

/-! ## setDt -/

@[simp] theorem setDt_mem (b : Byte) : (s.setDt b).mem = s.mem := rfl
@[simp] theorem setDt_pc (b : Byte) : (s.setDt b).pc = s.pc := rfl
@[simp] theorem setDt_programEnd (b : Byte) : (s.setDt b).programEnd = s.programEnd := rfl
@[simp] theorem setDt_v (b : Byte) : (s.setDt b).v = s.v := rfl
@[simp] theorem setDt_i (b : Byte) : (s.setDt b).i = s.i := rfl
@[simp] theorem setDt_stack (b : Byte) : (s.setDt b).stack = s.stack := rfl
@[simp] theorem setDt_dt (b : Byte) : (s.setDt b).dt = b := rfl
@[simp] theorem setDt_st (b : Byte) : (s.setDt b).st = s.st := rfl
@[simp] theorem setDt_fb (b : Byte) : (s.setDt b).fb = s.fb := rfl
@[simp] theorem setDt_dirty (b : Byte) : (s.setDt b).dirty = s.dirty := rfl
@[simp] theorem setDt_fault (b : Byte) : (s.setDt b).fault = s.fault := rfl
@[simp] theorem setDt_env (b : Byte) : (s.setDt b).env = s.env := rfl
@[simp] theorem reg_setDt (b : Byte) (r : Reg) : (s.setDt b).reg r = s.reg r := rfl
@[simp] theorem byteAt_setDt (b : Byte) (adr : Nat) : (s.setDt b).byteAt adr = s.byteAt adr := rfl
@[simp] theorem bytesAt_setDt (b : Byte) (adr len : Nat) : (s.setDt b).bytesAt adr len = s.bytesAt adr len := rfl
@[simp] theorem pixel_setDt (b : Byte) (y : Fin 32) (x' : Fin 64) : (s.setDt b).pixel y x' = s.pixel y x' := rfl
@[simp] theorem sp_setDt (b : Byte) : (s.setDt b).sp = s.sp := rfl
@[simp] theorem rndByte_setDt (b : Byte) : (s.setDt b).rndByte = s.rndByte := rfl

/-! ## setSt -/

@[simp] theorem setSt_mem (b : Byte) : (s.setSt b).mem = s.mem := rfl
@[simp] theorem setSt_pc (b : Byte) : (s.setSt b).pc = s.pc := rfl
@[simp] theorem setSt_programEnd (b : Byte) : (s.setSt b).programEnd = s.programEnd := rfl
@[simp] theorem setSt_v (b : Byte) : (s.setSt b).v = s.v := rfl
@[simp] theorem setSt_i (b : Byte) : (s.setSt b).i = s.i := rfl
@[simp] theorem setSt_stack (b : Byte) : (s.setSt b).stack = s.stack := rfl
@[simp] theorem setSt_dt (b : Byte) : (s.setSt b).dt = s.dt := rfl
@[simp] theorem setSt_st (b : Byte) : (s.setSt b).st = b := rfl
@[simp] theorem setSt_fb (b : Byte) : (s.setSt b).fb = s.fb := rfl
@[simp] theorem setSt_dirty (b : Byte) : (s.setSt b).dirty = s.dirty := rfl
@[simp] theorem setSt_fault (b : Byte) : (s.setSt b).fault = s.fault := rfl
@[simp] theorem setSt_env (b : Byte) : (s.setSt b).env = s.env := rfl
@[simp] theorem reg_setSt (b : Byte) (r : Reg) : (s.setSt b).reg r = s.reg r := rfl
@[simp] theorem byteAt_setSt (b : Byte) (adr : Nat) : (s.setSt b).byteAt adr = s.byteAt adr := rfl
@[simp] theorem bytesAt_setSt (b : Byte) (adr len : Nat) : (s.setSt b).bytesAt adr len = s.bytesAt adr len := rfl
@[simp] theorem pixel_setSt (b : Byte) (y : Fin 32) (x' : Fin 64) : (s.setSt b).pixel y x' = s.pixel y x' := rfl
@[simp] theorem sp_setSt (b : Byte) : (s.setSt b).sp = s.sp := rfl
@[simp] theorem rndByte_setSt (b : Byte) : (s.setSt b).rndByte = s.rndByte := rfl

/-! ## setScreen -/

@[simp] theorem setScreen_mem (fb : Screen) : (s.setScreen fb).mem = s.mem := rfl
@[simp] theorem setScreen_pc (fb : Screen) : (s.setScreen fb).pc = s.pc := rfl
@[simp] theorem setScreen_programEnd (fb : Screen) : (s.setScreen fb).programEnd = s.programEnd := rfl
@[simp] theorem setScreen_v (fb : Screen) : (s.setScreen fb).v = s.v := rfl
@[simp] theorem setScreen_i (fb : Screen) : (s.setScreen fb).i = s.i := rfl
@[simp] theorem setScreen_stack (fb : Screen) : (s.setScreen fb).stack = s.stack := rfl
@[simp] theorem setScreen_dt (fb : Screen) : (s.setScreen fb).dt = s.dt := rfl
@[simp] theorem setScreen_st (fb : Screen) : (s.setScreen fb).st = s.st := rfl
@[simp] theorem setScreen_fb (fb : Screen) : (s.setScreen fb).fb = fb := rfl
@[simp] theorem setScreen_dirty (fb : Screen) : (s.setScreen fb).dirty = true := rfl
@[simp] theorem setScreen_fault (fb : Screen) : (s.setScreen fb).fault = s.fault := rfl
@[simp] theorem setScreen_env (fb : Screen) : (s.setScreen fb).env = s.env := rfl
@[simp] theorem reg_setScreen (fb : Screen) (r : Reg) : (s.setScreen fb).reg r = s.reg r := rfl
@[simp] theorem byteAt_setScreen (fb : Screen) (adr : Nat) : (s.setScreen fb).byteAt adr = s.byteAt adr := rfl
@[simp] theorem bytesAt_setScreen (fb : Screen) (adr len : Nat) : (s.setScreen fb).bytesAt adr len = s.bytesAt adr len := rfl
@[simp] theorem sp_setScreen (fb : Screen) : (s.setScreen fb).sp = s.sp := rfl
@[simp] theorem rndByte_setScreen (fb : Screen) : (s.setScreen fb).rndByte = s.rndByte := rfl

/-! ## cleanDirty -/

@[simp] theorem cleanDirty_mem : (s.cleanDirty).mem = s.mem := rfl
@[simp] theorem cleanDirty_pc : (s.cleanDirty).pc = s.pc := rfl
@[simp] theorem cleanDirty_programEnd : (s.cleanDirty).programEnd = s.programEnd := rfl
@[simp] theorem cleanDirty_v : (s.cleanDirty).v = s.v := rfl
@[simp] theorem cleanDirty_i : (s.cleanDirty).i = s.i := rfl
@[simp] theorem cleanDirty_stack : (s.cleanDirty).stack = s.stack := rfl
@[simp] theorem cleanDirty_dt : (s.cleanDirty).dt = s.dt := rfl
@[simp] theorem cleanDirty_st : (s.cleanDirty).st = s.st := rfl
@[simp] theorem cleanDirty_fb : (s.cleanDirty).fb = s.fb := rfl
@[simp] theorem cleanDirty_dirty : (s.cleanDirty).dirty = false := rfl
@[simp] theorem cleanDirty_fault : (s.cleanDirty).fault = s.fault := rfl
@[simp] theorem cleanDirty_env : (s.cleanDirty).env = s.env := rfl
@[simp] theorem reg_cleanDirty (r : Reg) : (s.cleanDirty).reg r = s.reg r := rfl
@[simp] theorem byteAt_cleanDirty (adr : Nat) : (s.cleanDirty).byteAt adr = s.byteAt adr := rfl
@[simp] theorem bytesAt_cleanDirty (adr len : Nat) : (s.cleanDirty).bytesAt adr len = s.bytesAt adr len := rfl
@[simp] theorem pixel_cleanDirty (y : Fin 32) (x' : Fin 64) : (s.cleanDirty).pixel y x' = s.pixel y x' := rfl
@[simp] theorem sp_cleanDirty : (s.cleanDirty).sp = s.sp := rfl
@[simp] theorem rndByte_cleanDirty : (s.cleanDirty).rndByte = s.rndByte := rfl

/-! ## latch -/

@[simp] theorem latch_mem (f : Fault) : (s.latch f).mem = s.mem := rfl
@[simp] theorem latch_pc (f : Fault) : (s.latch f).pc = s.pc := rfl
@[simp] theorem latch_programEnd (f : Fault) : (s.latch f).programEnd = s.programEnd := rfl
@[simp] theorem latch_v (f : Fault) : (s.latch f).v = s.v := rfl
@[simp] theorem latch_i (f : Fault) : (s.latch f).i = s.i := rfl
@[simp] theorem latch_stack (f : Fault) : (s.latch f).stack = s.stack := rfl
@[simp] theorem latch_dt (f : Fault) : (s.latch f).dt = s.dt := rfl
@[simp] theorem latch_st (f : Fault) : (s.latch f).st = s.st := rfl
@[simp] theorem latch_fb (f : Fault) : (s.latch f).fb = s.fb := rfl
@[simp] theorem latch_dirty (f : Fault) : (s.latch f).dirty = s.dirty := rfl
@[simp] theorem latch_fault (f : Fault) : (s.latch f).fault = some f := rfl
@[simp] theorem latch_env (f : Fault) : (s.latch f).env = s.env := rfl
@[simp] theorem reg_latch (f : Fault) (r : Reg) : (s.latch f).reg r = s.reg r := rfl
@[simp] theorem byteAt_latch (f : Fault) (adr : Nat) : (s.latch f).byteAt adr = s.byteAt adr := rfl
@[simp] theorem bytesAt_latch (f : Fault) (adr len : Nat) : (s.latch f).bytesAt adr len = s.bytesAt adr len := rfl
@[simp] theorem pixel_latch (f : Fault) (y : Fin 32) (x' : Fin 64) : (s.latch f).pixel y x' = s.pixel y x' := rfl
@[simp] theorem sp_latch (f : Fault) : (s.latch f).sp = s.sp := rfl
@[simp] theorem rndByte_latch (f : Fault) : (s.latch f).rndByte = s.rndByte := rfl

/-! ## reply -/

@[simp] theorem reply_mem (r : StepResult) : (s.reply r).mem = s.mem := rfl
@[simp] theorem reply_pc (r : StepResult) : (s.reply r).pc = s.pc := rfl
@[simp] theorem reply_programEnd (r : StepResult) : (s.reply r).programEnd = s.programEnd := rfl
@[simp] theorem reply_v (r : StepResult) : (s.reply r).v = s.v := rfl
@[simp] theorem reply_i (r : StepResult) : (s.reply r).i = s.i := rfl
@[simp] theorem reply_stack (r : StepResult) : (s.reply r).stack = s.stack := rfl
@[simp] theorem reply_dt (r : StepResult) : (s.reply r).dt = s.dt := rfl
@[simp] theorem reply_st (r : StepResult) : (s.reply r).st = s.st := rfl
@[simp] theorem reply_fb (r : StepResult) : (s.reply r).fb = s.fb := rfl
@[simp] theorem reply_dirty (r : StepResult) : (s.reply r).dirty = s.dirty := rfl
@[simp] theorem reply_fault (r : StepResult) : (s.reply r).fault = s.fault := rfl
@[simp] theorem reply_env_keys (r : StepResult) : (s.reply r).env.keys = s.env.keys := rfl
@[simp] theorem reply_env_rndIn (r : StepResult) : (s.reply r).env.rndIn = s.env.rndIn := rfl
@[simp] theorem reply_env_draws (r : StepResult) : (s.reply r).env.draws = s.env.draws := rfl
@[simp] theorem reply_env_schedule (r : StepResult) : (s.reply r).env.schedule = s.env.schedule := rfl
@[simp] theorem reply_env_result (r : StepResult) : (s.reply r).env.result = some r := rfl
@[simp] theorem reply_env_loadResult (r : StepResult) : (s.reply r).env.loadResult = s.env.loadResult := rfl
@[simp] theorem reg_reply (r : StepResult) (g : Reg) : (s.reply r).reg g = s.reg g := rfl
@[simp] theorem byteAt_reply (r : StepResult) (adr : Nat) : (s.reply r).byteAt adr = s.byteAt adr := rfl
@[simp] theorem bytesAt_reply (r : StepResult) (adr len : Nat) : (s.reply r).bytesAt adr len = s.bytesAt adr len := rfl
@[simp] theorem pixel_reply (r : StepResult) (y : Fin 32) (x' : Fin 64) : (s.reply r).pixel y x' = s.pixel y x' := rfl
@[simp] theorem sp_reply (r : StepResult) : (s.reply r).sp = s.sp := rfl

/-! ## setSchedule -/

@[simp] theorem setSchedule_mem (l : List Event) : (s.setSchedule l).mem = s.mem := rfl
@[simp] theorem setSchedule_pc (l : List Event) : (s.setSchedule l).pc = s.pc := rfl
@[simp] theorem setSchedule_programEnd (l : List Event) : (s.setSchedule l).programEnd = s.programEnd := rfl
@[simp] theorem setSchedule_v (l : List Event) : (s.setSchedule l).v = s.v := rfl
@[simp] theorem setSchedule_i (l : List Event) : (s.setSchedule l).i = s.i := rfl
@[simp] theorem setSchedule_stack (l : List Event) : (s.setSchedule l).stack = s.stack := rfl
@[simp] theorem setSchedule_dt (l : List Event) : (s.setSchedule l).dt = s.dt := rfl
@[simp] theorem setSchedule_st (l : List Event) : (s.setSchedule l).st = s.st := rfl
@[simp] theorem setSchedule_fb (l : List Event) : (s.setSchedule l).fb = s.fb := rfl
@[simp] theorem setSchedule_dirty (l : List Event) : (s.setSchedule l).dirty = s.dirty := rfl
@[simp] theorem setSchedule_fault (l : List Event) : (s.setSchedule l).fault = s.fault := rfl
@[simp] theorem setSchedule_env_keys (l : List Event) : (s.setSchedule l).env.keys = s.env.keys := rfl
@[simp] theorem setSchedule_env_rndIn (l : List Event) : (s.setSchedule l).env.rndIn = s.env.rndIn := rfl
@[simp] theorem setSchedule_env_draws (l : List Event) : (s.setSchedule l).env.draws = s.env.draws := rfl
@[simp] theorem setSchedule_env_schedule (l : List Event) : (s.setSchedule l).env.schedule = l := rfl
@[simp] theorem setSchedule_env_result (l : List Event) : (s.setSchedule l).env.result = s.env.result := rfl
@[simp] theorem setSchedule_env_loadResult (l : List Event) : (s.setSchedule l).env.loadResult = s.env.loadResult := rfl
@[simp] theorem reg_setSchedule (l : List Event) (r : Reg) : (s.setSchedule l).reg r = s.reg r := rfl
@[simp] theorem byteAt_setSchedule (l : List Event) (adr : Nat) : (s.setSchedule l).byteAt adr = s.byteAt adr := rfl
@[simp] theorem bytesAt_setSchedule (l : List Event) (adr len : Nat) : (s.setSchedule l).bytesAt adr len = s.bytesAt adr len := rfl
@[simp] theorem pixel_setSchedule (l : List Event) (y : Fin 32) (x' : Fin 64) : (s.setSchedule l).pixel y x' = s.pixel y x' := rfl
@[simp] theorem sp_setSchedule (l : List Event) : (s.setSchedule l).sp = s.sp := rfl

/-! ## rndTaken -/

@[simp] theorem rndTaken_mem : (s.rndTaken).mem = s.mem := rfl
@[simp] theorem rndTaken_pc : (s.rndTaken).pc = s.pc := rfl
@[simp] theorem rndTaken_programEnd : (s.rndTaken).programEnd = s.programEnd := rfl
@[simp] theorem rndTaken_v : (s.rndTaken).v = s.v := rfl
@[simp] theorem rndTaken_i : (s.rndTaken).i = s.i := rfl
@[simp] theorem rndTaken_stack : (s.rndTaken).stack = s.stack := rfl
@[simp] theorem rndTaken_dt : (s.rndTaken).dt = s.dt := rfl
@[simp] theorem rndTaken_st : (s.rndTaken).st = s.st := rfl
@[simp] theorem rndTaken_fb : (s.rndTaken).fb = s.fb := rfl
@[simp] theorem rndTaken_dirty : (s.rndTaken).dirty = s.dirty := rfl
@[simp] theorem rndTaken_fault : (s.rndTaken).fault = s.fault := rfl
@[simp] theorem rndTaken_env_keys : (s.rndTaken).env.keys = s.env.keys := rfl
@[simp] theorem rndTaken_env_rndIn : (s.rndTaken).env.rndIn = s.env.rndIn.tail := rfl
@[simp] theorem rndTaken_env_draws : (s.rndTaken).env.draws = s.env.draws + 1 := rfl
@[simp] theorem rndTaken_env_schedule : (s.rndTaken).env.schedule = s.env.schedule := rfl
@[simp] theorem rndTaken_env_result : (s.rndTaken).env.result = s.env.result := rfl
@[simp] theorem rndTaken_env_loadResult : (s.rndTaken).env.loadResult = s.env.loadResult := rfl
@[simp] theorem reg_rndTaken (r : Reg) : (s.rndTaken).reg r = s.reg r := rfl
@[simp] theorem byteAt_rndTaken (adr : Nat) : (s.rndTaken).byteAt adr = s.byteAt adr := rfl
@[simp] theorem bytesAt_rndTaken (adr len : Nat) : (s.rndTaken).bytesAt adr len = s.bytesAt adr len := rfl
@[simp] theorem pixel_rndTaken (y : Fin 32) (x' : Fin 64) : (s.rndTaken).pixel y x' = s.pixel y x' := rfl
@[simp] theorem sp_rndTaken : (s.rndTaken).sp = s.sp := rfl

/-! ## setKeys -/

@[simp] theorem setKeys_mem (k : BitVec 16) : (s.setKeys k).mem = s.mem := rfl
@[simp] theorem setKeys_pc (k : BitVec 16) : (s.setKeys k).pc = s.pc := rfl
@[simp] theorem setKeys_programEnd (k : BitVec 16) : (s.setKeys k).programEnd = s.programEnd := rfl
@[simp] theorem setKeys_v (k : BitVec 16) : (s.setKeys k).v = s.v := rfl
@[simp] theorem setKeys_i (k : BitVec 16) : (s.setKeys k).i = s.i := rfl
@[simp] theorem setKeys_stack (k : BitVec 16) : (s.setKeys k).stack = s.stack := rfl
@[simp] theorem setKeys_dt (k : BitVec 16) : (s.setKeys k).dt = s.dt := rfl
@[simp] theorem setKeys_st (k : BitVec 16) : (s.setKeys k).st = s.st := rfl
@[simp] theorem setKeys_fb (k : BitVec 16) : (s.setKeys k).fb = s.fb := rfl
@[simp] theorem setKeys_dirty (k : BitVec 16) : (s.setKeys k).dirty = s.dirty := rfl
@[simp] theorem setKeys_fault (k : BitVec 16) : (s.setKeys k).fault = s.fault := rfl
@[simp] theorem setKeys_env_keys (k : BitVec 16) : (s.setKeys k).env.keys = k := rfl
@[simp] theorem setKeys_env_rndIn (k : BitVec 16) : (s.setKeys k).env.rndIn = s.env.rndIn := rfl
@[simp] theorem setKeys_env_draws (k : BitVec 16) : (s.setKeys k).env.draws = s.env.draws := rfl
@[simp] theorem setKeys_env_schedule (k : BitVec 16) : (s.setKeys k).env.schedule = s.env.schedule := rfl
@[simp] theorem setKeys_env_result (k : BitVec 16) : (s.setKeys k).env.result = s.env.result := rfl
@[simp] theorem setKeys_env_loadResult (k : BitVec 16) : (s.setKeys k).env.loadResult = s.env.loadResult := rfl
@[simp] theorem reg_setKeys (k : BitVec 16) (r : Reg) : (s.setKeys k).reg r = s.reg r := rfl
@[simp] theorem byteAt_setKeys (k : BitVec 16) (adr : Nat) : (s.setKeys k).byteAt adr = s.byteAt adr := rfl
@[simp] theorem bytesAt_setKeys (k : BitVec 16) (adr len : Nat) : (s.setKeys k).bytesAt adr len = s.bytesAt adr len := rfl
@[simp] theorem pixel_setKeys (k : BitVec 16) (y : Fin 32) (x' : Fin 64) : (s.setKeys k).pixel y x' = s.pixel y x' := rfl
@[simp] theorem sp_setKeys (k : BitVec 16) : (s.setKeys k).sp = s.sp := rfl

/-! ## replyLoad -/

@[simp] theorem replyLoad_mem (r : LoadResult) : (s.replyLoad r).mem = s.mem := rfl
@[simp] theorem replyLoad_pc (r : LoadResult) : (s.replyLoad r).pc = s.pc := rfl
@[simp] theorem replyLoad_programEnd (r : LoadResult) : (s.replyLoad r).programEnd = s.programEnd := rfl
@[simp] theorem replyLoad_v (r : LoadResult) : (s.replyLoad r).v = s.v := rfl
@[simp] theorem replyLoad_i (r : LoadResult) : (s.replyLoad r).i = s.i := rfl
@[simp] theorem replyLoad_stack (r : LoadResult) : (s.replyLoad r).stack = s.stack := rfl
@[simp] theorem replyLoad_dt (r : LoadResult) : (s.replyLoad r).dt = s.dt := rfl
@[simp] theorem replyLoad_st (r : LoadResult) : (s.replyLoad r).st = s.st := rfl
@[simp] theorem replyLoad_fb (r : LoadResult) : (s.replyLoad r).fb = s.fb := rfl
@[simp] theorem replyLoad_dirty (r : LoadResult) : (s.replyLoad r).dirty = s.dirty := rfl
@[simp] theorem replyLoad_fault (r : LoadResult) : (s.replyLoad r).fault = s.fault := rfl
@[simp] theorem replyLoad_env_keys (r : LoadResult) : (s.replyLoad r).env.keys = s.env.keys := rfl
@[simp] theorem replyLoad_env_rndIn (r : LoadResult) : (s.replyLoad r).env.rndIn = s.env.rndIn := rfl
@[simp] theorem replyLoad_env_draws (r : LoadResult) : (s.replyLoad r).env.draws = s.env.draws := rfl
@[simp] theorem replyLoad_env_schedule (r : LoadResult) : (s.replyLoad r).env.schedule = s.env.schedule := rfl
@[simp] theorem replyLoad_env_result (r : LoadResult) : (s.replyLoad r).env.result = s.env.result := rfl
@[simp] theorem replyLoad_env_loadResult (r : LoadResult) : (s.replyLoad r).env.loadResult = r := rfl
@[simp] theorem reg_replyLoad (r : LoadResult) (g : Reg) : (s.replyLoad r).reg g = s.reg g := rfl
@[simp] theorem byteAt_replyLoad (r : LoadResult) (adr : Nat) : (s.replyLoad r).byteAt adr = s.byteAt adr := rfl
@[simp] theorem bytesAt_replyLoad (r : LoadResult) (adr len : Nat) : (s.replyLoad r).bytesAt adr len = s.bytesAt adr len := rfl
@[simp] theorem pixel_replyLoad (r : LoadResult) (y : Fin 32) (x' : Fin 64) : (s.replyLoad r).pixel y x' = s.pixel y x' := rfl
@[simp] theorem sp_replyLoad (r : LoadResult) : (s.replyLoad r).sp = s.sp := rfl

/-! ## tick -/

@[simp] theorem tick_mem : (s.tick).mem = s.mem := rfl
@[simp] theorem tick_pc : (s.tick).pc = s.pc := rfl
@[simp] theorem tick_programEnd : (s.tick).programEnd = s.programEnd := rfl
@[simp] theorem tick_v : (s.tick).v = s.v := rfl
@[simp] theorem tick_i : (s.tick).i = s.i := rfl
@[simp] theorem tick_stack : (s.tick).stack = s.stack := rfl
@[simp] theorem tick_dt : (s.tick).dt = countDown s.dt := rfl
@[simp] theorem tick_st : (s.tick).st = countDown s.st := rfl
@[simp] theorem tick_fb : (s.tick).fb = s.fb := rfl
@[simp] theorem tick_dirty : (s.tick).dirty = s.dirty := rfl
@[simp] theorem tick_fault : (s.tick).fault = s.fault := rfl
@[simp] theorem tick_env : (s.tick).env = s.env := rfl
@[simp] theorem reg_tick (r : Reg) : (s.tick).reg r = s.reg r := rfl
@[simp] theorem byteAt_tick (adr : Nat) : (s.tick).byteAt adr = s.byteAt adr := rfl
@[simp] theorem bytesAt_tick (adr len : Nat) : (s.tick).bytesAt adr len = s.bytesAt adr len := rfl
@[simp] theorem pixel_tick (y : Fin 32) (x' : Fin 64) : (s.tick).pixel y x' = s.pixel y x' := rfl
@[simp] theorem sp_tick : (s.tick).sp = s.sp := rfl
@[simp] theorem rndByte_tick : (s.tick).rndByte = s.rndByte := rfl

/-! ## drawSprite -/

@[simp] theorem drawSprite_mem (x0 y0 n : Nat) : (s.drawSprite x0 y0 n).mem = s.mem := rfl
@[simp] theorem drawSprite_pc (x0 y0 n : Nat) : (s.drawSprite x0 y0 n).pc = s.pc := rfl
@[simp] theorem drawSprite_programEnd (x0 y0 n : Nat) : (s.drawSprite x0 y0 n).programEnd = s.programEnd := rfl
@[simp] theorem drawSprite_i (x0 y0 n : Nat) : (s.drawSprite x0 y0 n).i = s.i := rfl
@[simp] theorem drawSprite_stack (x0 y0 n : Nat) : (s.drawSprite x0 y0 n).stack = s.stack := rfl
@[simp] theorem drawSprite_dt (x0 y0 n : Nat) : (s.drawSprite x0 y0 n).dt = s.dt := rfl
@[simp] theorem drawSprite_st (x0 y0 n : Nat) : (s.drawSprite x0 y0 n).st = s.st := rfl
@[simp] theorem drawSprite_dirty (x0 y0 n : Nat) : (s.drawSprite x0 y0 n).dirty = true := rfl
@[simp] theorem drawSprite_fault (x0 y0 n : Nat) : (s.drawSprite x0 y0 n).fault = s.fault := rfl
@[simp] theorem drawSprite_env (x0 y0 n : Nat) : (s.drawSprite x0 y0 n).env = s.env := rfl
@[simp] theorem byteAt_drawSprite (x0 y0 n : Nat) (adr : Nat) : (s.drawSprite x0 y0 n).byteAt adr = s.byteAt adr := rfl
@[simp] theorem bytesAt_drawSprite (x0 y0 n : Nat) (adr len : Nat) : (s.drawSprite x0 y0 n).bytesAt adr len = s.bytesAt adr len := rfl
@[simp] theorem sp_drawSprite (x0 y0 n : Nat) : (s.drawSprite x0 y0 n).sp = s.sp := rfl
@[simp] theorem rndByte_drawSprite (x0 y0 n : Nat) : (s.drawSprite x0 y0 n).rndByte = s.rndByte := rfl

/-! ## The skip -/

@[simp] theorem skipIf_mem (c : Bool) : (s.skipIf c).mem = s.mem := by cases c <;> rfl
@[simp] theorem skipIf_pc (c : Bool) : (s.skipIf c).pc = if c then s.pc + 2 else s.pc := by cases c <;> rfl
@[simp] theorem skipIf_programEnd (c : Bool) : (s.skipIf c).programEnd = s.programEnd := by cases c <;> rfl
@[simp] theorem skipIf_v (c : Bool) : (s.skipIf c).v = s.v := by cases c <;> rfl
@[simp] theorem skipIf_i (c : Bool) : (s.skipIf c).i = s.i := by cases c <;> rfl
@[simp] theorem skipIf_stack (c : Bool) : (s.skipIf c).stack = s.stack := by cases c <;> rfl
@[simp] theorem skipIf_dt (c : Bool) : (s.skipIf c).dt = s.dt := by cases c <;> rfl
@[simp] theorem skipIf_st (c : Bool) : (s.skipIf c).st = s.st := by cases c <;> rfl
@[simp] theorem skipIf_fb (c : Bool) : (s.skipIf c).fb = s.fb := by cases c <;> rfl
@[simp] theorem skipIf_dirty (c : Bool) : (s.skipIf c).dirty = s.dirty := by cases c <;> rfl
@[simp] theorem skipIf_fault (c : Bool) : (s.skipIf c).fault = s.fault := by cases c <;> rfl
@[simp] theorem skipIf_env (c : Bool) : (s.skipIf c).env = s.env := by cases c <;> rfl
@[simp] theorem reg_skipIf (c : Bool) (r : Reg) : (s.skipIf c).reg r = s.reg r := by cases c <;> rfl
@[simp] theorem byteAt_skipIf (c : Bool) (adr : Nat) : (s.skipIf c).byteAt adr = s.byteAt adr := by cases c <;> rfl
@[simp] theorem pixel_skipIf (c : Bool) (y : Fin 32) (x' : Fin 64) : (s.skipIf c).pixel y x' = s.pixel y x' := by
  cases c <;> rfl
@[simp] theorem sp_skipIf (c : Bool) : (s.skipIf c).sp = s.sp := by cases c <;> rfl

/-! ## What the readers give after the updates that touch what they read -/

@[simp] theorem reg_setReg_self (x : Reg) (b : Byte) : (s.setReg x b).reg x = b := by
  simp [reg]

theorem reg_setReg_ne {x r : Reg} (b : Byte) (h : r ≠ x) : (s.setReg x b).reg r = s.reg r := by
  have : x.val ≠ r.val := fun e => h (Fin.ext e.symm)
  simp [reg, this]

/-- One register write, read back anywhere. -/
theorem reg_setReg (x r : Reg) (b : Byte) : (s.setReg x b).reg r = if r = x then b else s.reg r := by
  by_cases h : r = x
  · subst h; simp
  · simp [h, reg_setReg_ne]

/-- The register load, read back anywhere (R198). -/
theorem reg_loadRegs (base : Nat) (x r : Reg) :
    (s.loadRegs base x).reg r = if r ≤ x then s.byteAt (base + r.val) else s.reg r := by
  simp [reg, loadRegs, byteAt]

/-- Two states with the same registers one by one have the same register file. -/
theorem v_ext {s t : State} (h : ∀ r, s.reg r = t.reg r) : s.v = t.v := by
  apply Vector.ext
  intro k hk
  exact h ⟨k, hk⟩

@[simp] theorem sp_push (a : Word) : (s.push a).sp = s.sp + 1 := by simp [sp]
@[simp] theorem sp_setStack (l : List Word) : (s.setStack l).sp = l.length := rfl

end Sys2Proof.Machine.State
end

