-- ==== Sys2Proof/Laws/Ops.lean ====
section
/-! SUPPORT. What the shared operations can do, said once: the range check, taking a fault, an event, a `Step`; and each
arm of the dispatch. Later proofs cite these instead of unfolding. -/

namespace Sys2Proof.Machine

@[simp] theorem done_eq (s : State) : s.done = .next (s.reply .continued) := rfl

/-! ## The range check (R64, R77) -/

/-- The check passes exactly when nothing is accessed or every byte exists. -/
theorem rangeFault_eq_none (base n : Nat) : rangeFault base n = none ↔ n = 0 ∨ base + n ≤ 4096 := by
  unfold rangeFault
  simp only [Config.memSize]
  split <;> simp <;> omega

/-- Where it does not, the info is the lowest address that does not exist (R254). -/
theorem rangeFault_eq_some {base n : Nat} (h1 : 1 ≤ n) (h2 : 4096 < base + n) :
    rangeFault base n = some (.memoryOutOfBounds (max base 4096)) := by
  unfold rangeFault
  simp only [Config.memSize]
  rw [if_pos (by omega)]

theorem guardRange_in {base n : Nat} (s : State) (go : Out) (h : n = 0 ∨ base + n ≤ 4096) :
    guardRange base n s go = go := by
  simp [guardRange, (rangeFault_eq_none base n).mpr h]

theorem guardRange_out {base n : Nat} (s : State) (go : Out) (h1 : 1 ≤ n) (h2 : 4096 < base + n) :
    guardRange base n s go = raise (.memoryOutOfBounds (max base 4096)) s := by
  simp [guardRange, rangeFault_eq_some h1 h2]

/-- Everything a guarded access can answer. -/
theorem guardRange_cases (base n : Nat) (s : State) (go : Out) :
    ((n = 0 ∨ base + n ≤ 4096) ∧ guardRange base n s go = go) ∨
    (1 ≤ n ∧ 4096 < base + n ∧ guardRange base n s go = raise (.memoryOutOfBounds (max base 4096)) s) := by
  by_cases h : n = 0 ∨ base + n ≤ 4096
  · exact .inl ⟨h, guardRange_in s go h⟩
  · exact .inr ⟨by omega, by omega, guardRange_out s go (by omega) (by omega)⟩

/-! ## Taking a fault (R256) -/

theorem raise_eq (f : Fault) (s : State) : raise f s = .next ((s.latch f).reply (.fault f)) := rfl

/-! ## The events (R50) -/

theorem step_eq (s : State) : step s = nextEvent s := rfl

/-- With nothing listed, the next event is a `Step`. -/
theorem nextEvent_nil {s : State} (h : s.env.schedule = []) : nextEvent s = stepEvent s := by
  simp [nextEvent, h]

/-- A listed event comes first and is used up. -/
theorem nextEvent_cons {s : State} {e : Event} {l : List Event} (h : s.env.schedule = e :: l) :
    nextEvent s = runEvent e (s.setSchedule l) := by
  simp [nextEvent, h]

/-- Everything a `Step` can do (R120): the latch answers, the core has halted, the fetch faults, the word is illegal, or one
instruction is dispatched. -/
theorem stepEvent_cases (s : State) :
    (∃ f, s.fault = some f ∧ stepEvent s = .next (s.reply (.fault f))) ∨
    (s.fault = none ∧ s.programEnd.toNat ≤ s.pc.toNat ∧ stepEvent s = .next (s.reply .halted)) ∨
    (s.fault = none ∧ s.pc.toNat < s.programEnd.toNat ∧ 4096 < s.pc.toNat + 2 ∧
      stepEvent s = raise (.memoryOutOfBounds (max s.pc.toNat 4096)) s) ∨
    (s.fetches ∧ (∃ e, decode s.fetchWord = .error e) ∧
      stepEvent s = raise (.illegalOpcode s.fetchWord) s.advance) ∨
    (∃ i, s.dispatches i ∧ stepEvent s = exec i s.advance) := by
  cases hf : s.fault with
  | some f => exact .inl ⟨f, rfl, by simp [stepEvent, hf]⟩
  | none =>
    by_cases hp : s.programEnd ≤ s.pc
    · exact .inr (.inl ⟨rfl, BitVec.le_def.mp hp, by simp [stepEvent, hf, hp]⟩)
    · have hlt : s.pc.toNat < s.programEnd.toNat := by
        have : ¬ s.programEnd.toNat ≤ s.pc.toNat := fun h => hp (BitVec.le_def.mpr h)
        omega
      have hs : stepEvent s = fetchExec s := by simp [stepEvent, hf, hp]
      by_cases hr : s.pc.toNat + 2 ≤ 4096
      · have hfe : s.fetches := ⟨hf, hlt, by omega⟩
        have hg : fetchExec s = (match decode s.fetchWord with
            | .ok i => exec i s.advance
            | .error _ => raise (.illegalOpcode s.fetchWord) s.advance) :=
          guardRange_in s _ (.inr hr)
        cases hd : decode s.fetchWord with
        | error e => exact .inr (.inr (.inr (.inl ⟨hfe, ⟨e, rfl⟩, by rw [hs, hg, hd]⟩)))
        | ok i => exact .inr (.inr (.inr (.inr ⟨i, ⟨hfe, hd⟩, by rw [hs, hg, hd]⟩)))
      · exact .inr (.inr (.inl ⟨rfl, hlt, by omega, by rw [hs]; exact guardRange_out s _ (by decide) (by
          simp only [Config.instrBytes]; omega)⟩))

/-- A `Step` that dispatches runs the instruction with `pc` advanced (R124, R126). -/
theorem stepEvent_dispatches {s : State} {i : Instr} (h : s.dispatches i) : stepEvent s = exec i s.advance := by
  obtain ⟨⟨hf, hlt, hr⟩, hd⟩ := h
  have hp : ¬ s.programEnd ≤ s.pc := fun h => by have := BitVec.le_def.mp h; omega
  simp only [stepEvent, hf, if_neg hp]
  rw [fetchExec, guardRange_in s _ (.inr (by simp only [Config.instrBytes]; omega)), hd]

/-! ## The dispatch: each arm is its meaning -/

@[simp] theorem exec_cls (s : State) : exec (.cls) s =
    .next ((s.setScreen (Vector.replicate 32 0)).reply .continued) := rfl
@[simp] theorem exec_sys (nnn : BitVec 12) (s : State) : exec (.sys nnn) s =
    .next (s.reply .continued) := rfl
@[simp] theorem exec_jp (nnn : BitVec 12) (s : State) : exec (.jp nnn) s =
    .next ((s.setPc (addrOf nnn)).reply .continued) := rfl
@[simp] theorem exec_call (nnn : BitVec 12) (s : State) : exec (.call nnn) s =
    if s.sp ≥ 16 then raise .stackOverflow s else .next (((s.push s.pc).setPc (addrOf nnn)).reply .continued) := rfl
@[simp] theorem exec_seByte (x : Reg) (nn : Byte) (s : State) : exec (.seByte x nn) s =
    .next ((s.skipIf (s.reg x == nn)).reply .continued) := rfl
@[simp] theorem exec_sneByte (x : Reg) (nn : Byte) (s : State) : exec (.sneByte x nn) s =
    .next ((s.skipIf (s.reg x != nn)).reply .continued) := rfl
@[simp] theorem exec_seReg (x y : Reg) (s : State) : exec (.seReg x y) s =
    .next ((s.skipIf (s.reg x == s.reg y)).reply .continued) := rfl
@[simp] theorem exec_ldByte (x : Reg) (nn : Byte) (s : State) : exec (.ldByte x nn) s =
    .next ((s.setReg x nn).reply .continued) := rfl
@[simp] theorem exec_addByte (x : Reg) (nn : Byte) (s : State) : exec (.addByte x nn) s =
    .next ((s.setReg x (s.reg x + nn)).reply .continued) := rfl
@[simp] theorem exec_ldReg (x y : Reg) (s : State) : exec (.ldReg x y) s =
    .next ((s.setReg x (s.reg y)).reply .continued) := rfl
@[simp] theorem exec_orReg (x y : Reg) (s : State) : exec (.orReg x y) s =
    .next ((s.setReg x (s.reg x ||| s.reg y)).reply .continued) := rfl
@[simp] theorem exec_andReg (x y : Reg) (s : State) : exec (.andReg x y) s =
    .next ((s.setReg x (s.reg x &&& s.reg y)).reply .continued) := rfl
@[simp] theorem exec_xorReg (x y : Reg) (s : State) : exec (.xorReg x y) s =
    .next ((s.setReg x (s.reg x ^^^ s.reg y)).reply .continued) := rfl
@[simp] theorem exec_addReg (x y : Reg) (s : State) : exec (.addReg x y) s =
    .next (((s.setReg x (s.reg x + s.reg y)).setReg State.vf (carryFlag (s.reg x) (s.reg y))).reply .continued) := rfl
@[simp] theorem exec_subReg (x y : Reg) (s : State) : exec (.subReg x y) s =
    .next (((s.setReg State.vf (noBorrowFlag (s.reg x) (s.reg y))).setReg x (s.reg x - s.reg y)).reply .continued) := rfl
@[simp] theorem exec_shr (x y : Reg) (s : State) : exec (.shr x y) s =
    .next (((s.setReg State.vf (lowBitFlag (s.reg x))).setReg x (s.reg x >>> 1)).reply .continued) := rfl
@[simp] theorem exec_subnReg (x y : Reg) (s : State) : exec (.subnReg x y) s =
    .next (((s.setReg State.vf (noBorrowFlag (s.reg y) (s.reg x))).setReg x (s.reg y - s.reg x)).reply .continued) := rfl
@[simp] theorem exec_shl (x y : Reg) (s : State) : exec (.shl x y) s =
    .next (((s.setReg State.vf (highBitFlag (s.reg x))).setReg x (s.reg x <<< 1)).reply .continued) := rfl
@[simp] theorem exec_sneReg (x y : Reg) (s : State) : exec (.sneReg x y) s =
    .next ((s.skipIf (s.reg x != s.reg y)).reply .continued) := rfl
@[simp] theorem exec_ldI (nnn : BitVec 12) (s : State) : exec (.ldI nnn) s =
    .next ((s.setI (addrOf nnn)).reply .continued) := rfl
@[simp] theorem exec_jpV0 (nnn : BitVec 12) (s : State) : exec (.jpV0 nnn) s =
    .next ((s.setPc (offsetTarget nnn (s.reg 0))).reply .continued) := rfl
@[simp] theorem exec_rnd (x : Reg) (nn : Byte) (s : State) : exec (.rnd x nn) s =
    .next ((s.rndTaken.setReg x (s.rndByte &&& nn)).reply .continued) := rfl
@[simp] theorem exec_drw (x y : Reg) (n : BitVec 4) (s : State) : exec (.drw x y n) s =
    guardRange s.i.toNat n.toNat s (.next ((s.drawSprite ((s.reg x).toNat % 64) ((s.reg y).toNat % 32) n.toNat).reply .continued)) := rfl
@[simp] theorem exec_skp (x : Reg) (s : State) : exec (.skp x) s =
    .next ((s.skipIf (keyDown s.env.keys (s.reg x))).reply .continued) := rfl
@[simp] theorem exec_sknp (x : Reg) (s : State) : exec (.sknp x) s =
    .next ((s.skipIf (!keyDown s.env.keys (s.reg x))).reply .continued) := rfl
@[simp] theorem exec_ldVxDt (x : Reg) (s : State) : exec (.ldVxDt x) s =
    .next ((s.setReg x s.dt).reply .continued) := rfl
@[simp] theorem exec_ldDtVx (x : Reg) (s : State) : exec (.ldDtVx x) s =
    .next ((s.setDt (s.reg x)).reply .continued) := rfl
@[simp] theorem exec_ldStVx (x : Reg) (s : State) : exec (.ldStVx x) s =
    .next ((s.setSt (s.reg x)).reply .continued) := rfl
@[simp] theorem exec_addIVx (x : Reg) (s : State) : exec (.addIVx x) s =
    .next ((s.setI (indexSum s.i (s.reg x))).reply .continued) := rfl
@[simp] theorem exec_ldFVx (x : Reg) (s : State) : exec (.ldFVx x) s =
    .next ((s.setI (glyphAddr (s.reg x))).reply .continued) := rfl
@[simp] theorem exec_ldBVx (x : Reg) (s : State) : exec (.ldBVx x) s =
    guardRange s.i.toNat 3 s (.next ((s.storeBytes s.i.toNat (decimalDigits (s.reg x))).reply .continued)) := rfl
@[simp] theorem exec_ldMemVx (x : Reg) (s : State) : exec (.ldMemVx x) s =
    guardRange s.i.toNat (x.val + 1) s (.next ((s.storeBytes s.i.toNat (s.regsUpTo x)).reply .continued)) := rfl
@[simp] theorem exec_ldVxMem (x : Reg) (s : State) : exec (.ldVxMem x) s =
    guardRange s.i.toNat (x.val + 1) s (.next ((s.loadRegs s.i.toNat x).reply .continued)) := rfl

/-- `00EE` with an empty stack (R253). -/
theorem exec_ret_empty {s : State} (h : s.stack = []) : exec .ret s = raise .stackUnderflow s := by
  simp [exec, execRet, h]

/-- `00EE` with a pushed frame: the last entry is popped into `pc` (R140). -/
theorem exec_ret_pop {s : State} {l : List Word} {a : Word} (h : s.stack = l ++ [a]) :
    exec .ret s = .next (((s.setStack l).setPc a).reply .continued) := by
  simp [exec, execRet, h]

/-- Everything `00EE` can do. -/
theorem exec_ret_cases (s : State) :
    (s.stack = [] ∧ exec .ret s = raise .stackUnderflow s) ∨
    (∃ l a, s.stack = l ++ [a] ∧ exec .ret s = .next (((s.setStack l).setPc a).reply .continued)) := by
  rcases List.eq_nil_or_concat s.stack with h | ⟨l, a, h⟩
  · exact .inl ⟨h, exec_ret_empty h⟩
  · have h' : s.stack = l ++ [a] := by simpa using h
    exact .inr ⟨l, a, h', exec_ret_pop h'⟩

/-- The least key that is down, or none (R236). -/
theorem firstKey_eq_none (keys : BitVec 16) : firstKey keys = none ↔ ∀ k, k < 16 → keys.getLsbD k = false := by
  simp [firstKey]

theorem firstKey_eq_some (keys : BitVec 16) (k : Nat) :
    firstKey keys = some k ↔ k < 16 ∧ keys.getLsbD k = true ∧ ∀ j, j < k → keys.getLsbD j = false := by
  unfold firstKey
  rw [List.find?_range_eq_some]
  simp only [Config.numKeys, List.mem_range]
  constructor
  · rintro ⟨h1, h2, h3⟩
    exact ⟨h2, h1, fun j hj => by simpa using h3 j hj⟩
  · rintro ⟨h1, h2, h3⟩
    exact ⟨h2, h1, fun j hj => by simp [h3 j hj]⟩

/-- `FX0A` with no key down (R236). -/
theorem exec_ldVxK_blocked {s : State} (x : Reg) (h : firstKey s.env.keys = none) :
    exec (.ldVxK x) s = .next ((s.setPc (s.pc - 2)).reply .blocked) := by
  simp [exec, execLdVxK, h]

/-- `FX0A` with a key down (R236). -/
theorem exec_ldVxK_key {s : State} (x : Reg) {k : Nat} (h : firstKey s.env.keys = some k) :
    exec (.ldVxK x) s = .next ((s.setReg x (BitVec.ofNat 8 k)).reply .continued) := by
  simp [exec, execLdVxK, h]

end Sys2Proof.Machine
end

