-- ==== Sys2Proof/Laws/PerInstr.lean ====
section
/-! SUPPORT. Facts stated per instruction form: the word the encoder gives lies in the form's own row of
spec/opcode_table.json (R96, R107). -/

namespace Sys2Proof.Laws.EncodingRow

/-- `mask` and `match` of the form's row of R96. -/
def row : Instr → Word × Word
  | .cls => (0xFFFF, 0x00E0)
  | .ret => (0xFFFF, 0x00EE)
  | .sys _ => (0xF000, 0x0000)
  | .jp _ => (0xF000, 0x1000)
  | .call _ => (0xF000, 0x2000)
  | .seByte _ _ => (0xF000, 0x3000)
  | .sneByte _ _ => (0xF000, 0x4000)
  | .seReg _ _ => (0xF00F, 0x5000)
  | .ldByte _ _ => (0xF000, 0x6000)
  | .addByte _ _ => (0xF000, 0x7000)
  | .ldReg _ _ => (0xF00F, 0x8000)
  | .orReg _ _ => (0xF00F, 0x8001)
  | .andReg _ _ => (0xF00F, 0x8002)
  | .xorReg _ _ => (0xF00F, 0x8003)
  | .addReg _ _ => (0xF00F, 0x8004)
  | .subReg _ _ => (0xF00F, 0x8005)
  | .shr _ _ => (0xF00F, 0x8006)
  | .subnReg _ _ => (0xF00F, 0x8007)
  | .shl _ _ => (0xF00F, 0x800E)
  | .sneReg _ _ => (0xF00F, 0x9000)
  | .ldI _ => (0xF000, 0xA000)
  | .jpV0 _ => (0xF000, 0xB000)
  | .rnd _ _ => (0xF000, 0xC000)
  | .drw _ _ _ => (0xF000, 0xD000)
  | .skp _ => (0xF0FF, 0xE09E)
  | .sknp _ => (0xF0FF, 0xE0A1)
  | .ldVxDt _ => (0xF0FF, 0xF007)
  | .ldVxK _ => (0xF0FF, 0xF00A)
  | .ldDtVx _ => (0xF0FF, 0xF015)
  | .ldStVx _ => (0xF0FF, 0xF018)
  | .addIVx _ => (0xF0FF, 0xF01E)
  | .ldFVx _ => (0xF0FF, 0xF029)
  | .ldBVx _ => (0xF0FF, 0xF033)
  | .ldMemVx _ => (0xF0FF, 0xF055)
  | .ldVxMem _ => (0xF0FF, 0xF065)

/-- The word of the instruction, under the row's mask, is the row's match: `w & mask == match` (R96). -/
def Statement (i : Instr) : Prop := encode i &&& (row i).1 = (row i).2

theorem wordA_row (op : BitVec 4) (nnn : BitVec 12) : wordA op nnn &&& 0xF000 = wordA op 0 := by
  unfold wordA
  apply BitVec.eq_of_getLsbD_eq
  intro k hk
  simp only [BitVec.getLsbD_and, BitVec.getLsbD_append (n := 4) (m := 12)]
  interval_cases k <;> simp

theorem wordXI_row (op : BitVec 4) (x : Reg) (nn : Byte) : wordXI op x nn &&& 0xF000 = wordXI op 0 0 := by
  unfold wordXI
  apply BitVec.eq_of_getLsbD_eq
  intro k hk
  simp only [BitVec.getLsbD_and, BitVec.getLsbD_append (n := 4 + 4) (m := 8), BitVec.getLsbD_append (n := 4) (m := 4)]
  interval_cases k <;> simp [regBits]

theorem wordXF_row (op : BitVec 4) (x : Reg) (f : Byte) : wordXI op x f &&& 0xF0FF = wordXI op 0 f := by
  unfold wordXI
  apply BitVec.eq_of_getLsbD_eq
  intro k hk
  simp only [BitVec.getLsbD_and, BitVec.getLsbD_append (n := 4 + 4) (m := 8), BitVec.getLsbD_append (n := 4) (m := 4)]
  interval_cases k <;> simp [regBits]

theorem wordXY_row (op : BitVec 4) (x y : Reg) (f : BitVec 4) : wordXYN op x y f &&& 0xF00F = wordXYN op 0 0 f := by
  unfold wordXYN
  apply BitVec.eq_of_getLsbD_eq
  intro k hk
  simp only [BitVec.getLsbD_and, BitVec.getLsbD_append (n := 4 + 4 + 4) (m := 4),
    BitVec.getLsbD_append (n := 4 + 4) (m := 4), BitVec.getLsbD_append (n := 4) (m := 4)]
  interval_cases k <;> simp [regBits]

theorem wordXYN_row (op : BitVec 4) (x y : Reg) (n : BitVec 4) : wordXYN op x y n &&& 0xF000 = wordXYN op 0 0 0 := by
  unfold wordXYN
  apply BitVec.eq_of_getLsbD_eq
  intro k hk
  simp only [BitVec.getLsbD_and, BitVec.getLsbD_append (n := 4 + 4 + 4) (m := 4),
    BitVec.getLsbD_append (n := 4 + 4) (m := 4), BitVec.getLsbD_append (n := 4) (m := 4)]
  interval_cases k <;> simp [regBits]

theorem cls : Statement .cls := rfl
theorem ret : Statement .ret := rfl
theorem sys (nnn : BitVec 12) : Statement (.sys nnn) := (wordA_row 0x0 nnn).trans rfl
theorem jp (nnn : BitVec 12) : Statement (.jp nnn) := (wordA_row 0x1 nnn).trans rfl
theorem call (nnn : BitVec 12) : Statement (.call nnn) := (wordA_row 0x2 nnn).trans rfl
theorem seByte (x : Reg) (nn : Byte) : Statement (.seByte x nn) := (wordXI_row 0x3 x nn).trans rfl
theorem sneByte (x : Reg) (nn : Byte) : Statement (.sneByte x nn) := (wordXI_row 0x4 x nn).trans rfl
theorem seReg (x y : Reg) : Statement (.seReg x y) := (wordXY_row 0x5 x y 0x0).trans rfl
theorem ldByte (x : Reg) (nn : Byte) : Statement (.ldByte x nn) := (wordXI_row 0x6 x nn).trans rfl
theorem addByte (x : Reg) (nn : Byte) : Statement (.addByte x nn) := (wordXI_row 0x7 x nn).trans rfl
theorem ldReg (x y : Reg) : Statement (.ldReg x y) := (wordXY_row 0x8 x y 0x0).trans rfl
theorem orReg (x y : Reg) : Statement (.orReg x y) := (wordXY_row 0x8 x y 0x1).trans rfl
theorem andReg (x y : Reg) : Statement (.andReg x y) := (wordXY_row 0x8 x y 0x2).trans rfl
theorem xorReg (x y : Reg) : Statement (.xorReg x y) := (wordXY_row 0x8 x y 0x3).trans rfl
theorem addReg (x y : Reg) : Statement (.addReg x y) := (wordXY_row 0x8 x y 0x4).trans rfl
theorem subReg (x y : Reg) : Statement (.subReg x y) := (wordXY_row 0x8 x y 0x5).trans rfl
theorem shr (x y : Reg) : Statement (.shr x y) := (wordXY_row 0x8 x y 0x6).trans rfl
theorem subnReg (x y : Reg) : Statement (.subnReg x y) := (wordXY_row 0x8 x y 0x7).trans rfl
theorem shl (x y : Reg) : Statement (.shl x y) := (wordXY_row 0x8 x y 0xE).trans rfl
theorem sneReg (x y : Reg) : Statement (.sneReg x y) := (wordXY_row 0x9 x y 0x0).trans rfl
theorem ldI (nnn : BitVec 12) : Statement (.ldI nnn) := (wordA_row 0xA nnn).trans rfl
theorem jpV0 (nnn : BitVec 12) : Statement (.jpV0 nnn) := (wordA_row 0xB nnn).trans rfl
theorem rnd (x : Reg) (nn : Byte) : Statement (.rnd x nn) := (wordXI_row 0xC x nn).trans rfl
theorem drw (x y : Reg) (n : BitVec 4) : Statement (.drw x y n) := (wordXYN_row 0xD x y n).trans rfl
theorem skp (x : Reg) : Statement (.skp x) := (wordXF_row 0xE x 0x9E).trans rfl
theorem sknp (x : Reg) : Statement (.sknp x) := (wordXF_row 0xE x 0xA1).trans rfl
theorem ldVxDt (x : Reg) : Statement (.ldVxDt x) := (wordXF_row 0xF x 0x07).trans rfl
theorem ldVxK (x : Reg) : Statement (.ldVxK x) := (wordXF_row 0xF x 0x0A).trans rfl
theorem ldDtVx (x : Reg) : Statement (.ldDtVx x) := (wordXF_row 0xF x 0x15).trans rfl
theorem ldStVx (x : Reg) : Statement (.ldStVx x) := (wordXF_row 0xF x 0x18).trans rfl
theorem addIVx (x : Reg) : Statement (.addIVx x) := (wordXF_row 0xF x 0x1E).trans rfl
theorem ldFVx (x : Reg) : Statement (.ldFVx x) := (wordXF_row 0xF x 0x29).trans rfl
theorem ldBVx (x : Reg) : Statement (.ldBVx x) := (wordXF_row 0xF x 0x33).trans rfl
theorem ldMemVx (x : Reg) : Statement (.ldMemVx x) := (wordXF_row 0xF x 0x55).trans rfl
theorem ldVxMem (x : Reg) : Statement (.ldVxMem x) := (wordXF_row 0xF x 0x65).trans rfl

end Sys2Proof.Laws.EncodingRow
end

