-- ==== Sys2Proof/Tests/Slice0.lean ====
section
/-! SUPPORT. Tests. The expected results are those of spec/95_test_vectors.md (the vector's name is given) or are read off the
encoding column of R96; none was taken from the model. Then, for each obligation with hypotheses, a witness that meets them,
clause by clause, at the ends of the ranges. -/

namespace Sys2Proof.Tests

open Sys2Proof Sys2Proof.Machine

/-! ## Small states -/

/-- The machine after the load of a ROM. -/
def prog (rom : List Byte) : State := State.reset.load rom

/-- Give registers values. -/
def regs (l : List (Reg × Byte)) (s : State) : State := l.foldl (fun s p => s.setReg p.1 p.2) s

/-- Store bytes. -/
def bytes (a : Nat) (l : List Byte) (s : State) : State := s.storeBytes a l

/-- Give `I` a value. -/
def idx (a : Word) (s : State) : State := s.setI a

/-- Give the key vector a value. -/
def keys (k : BitVec 16) (s : State) : State := s.setKeys k

/-- A full call stack of `n` entries. -/
def frames (n : Nat) (s : State) : State := s.setStack (List.replicate n 0x0202)

/-- One step answers a next state that presents the result `r` and has the property `p`. -/
def stepsTo (s : State) (r : StepResult) (p : State → Bool) : Bool :=
  match step s with
  | .next t => t.env.result == some r && p t
  | _ => false

/-- One step completes an instruction at 0x200 that does not alter `pc` itself. -/
def runs (s : State) (p : State → Bool) : Bool := stepsTo s .continued fun t => t.pc == 0x202 && p t

/-- The columns of row `y` that are lit. -/
def litIn (s : State) (y : Nat) : List Nat := (List.range 64).filter fun x => Screen.pixel s.fb y x

/-! ## WellFormed: what it refuses -/

theorem test_wf_refuses_sys_0E0 : (Instr.sys 0x0E0).wf = false := by decide
theorem test_wf_refuses_sys_0EE : (Instr.sys 0x0EE).wf = false := by decide
theorem test_wf_accepts_sys_0E1 : (Instr.sys 0x0E1).wf = true := by decide

/-! ## Decoding: one word per form, written out bit by bit from R96's encoding column -/

theorem test_decode_flow :
    decode 0b0000000011100000 = .ok .cls ∧ decode 0b0000000011101110 = .ok .ret ∧
    decode 0b0000000011100001 = .ok (.sys 0x0E1) ∧ decode 0b0001101010111100 = .ok (.jp 0xABC) ∧
    decode 0b0010001100000000 = .ok (.call 0x300) ∧ decode 0b0011101001111111 = .ok (.seByte 0xA 0x7F) ∧
    decode 0b0100101001111111 = .ok (.sneByte 0xA 0x7F) ∧ decode 0b0101101010110000 = .ok (.seReg 0xA 0xB) ∧
    decode 0b1001101010110000 = .ok (.sneReg 0xA 0xB) ∧ decode 0b1011001100000001 = .ok (.jpV0 0x301) := by decide

theorem test_decode_alu :
    decode 0b0110101011111111 = .ok (.ldByte 0xA 0xFF) ∧ decode 0b0111101010000001 = .ok (.addByte 0xA 0x81) ∧
    decode 0b1000000100100000 = .ok (.ldReg 1 2) ∧ decode 0b1000000100100001 = .ok (.orReg 1 2) ∧
    decode 0b1000000100100010 = .ok (.andReg 1 2) ∧ decode 0b1000000100100011 = .ok (.xorReg 1 2) ∧
    decode 0b1000000100100100 = .ok (.addReg 1 2) ∧ decode 0b1000000100100101 = .ok (.subReg 1 2) ∧
    decode 0b1000000100100110 = .ok (.shr 1 2) ∧ decode 0b1000000100100111 = .ok (.subnReg 1 2) ∧
    decode 0b1000000100101110 = .ok (.shl 1 2) ∧ decode 0b1100001100001111 = .ok (.rnd 3 0x0F) := by decide

theorem test_decode_rest :
    decode 0b1010001011110000 = .ok (.ldI 0x2F0) ∧ decode 0b1101000100100011 = .ok (.drw 1 2 3) ∧
    decode 0b1110000110011110 = .ok (.skp 1) ∧ decode 0b1110000110100001 = .ok (.sknp 1) ∧
    decode 0b1111010000000111 = .ok (.ldVxDt 4) ∧ decode 0b1111010100001010 = .ok (.ldVxK 5) ∧
    decode 0b1111001000010101 = .ok (.ldDtVx 2) ∧ decode 0b1111000100011000 = .ok (.ldStVx 1) ∧
    decode 0b1111001100011110 = .ok (.addIVx 3) ∧ decode 0b1111011000101001 = .ok (.ldFVx 6) ∧
    decode 0b1111011100110011 = .ok (.ldBVx 7) ∧ decode 0b1111100001010101 = .ok (.ldMemVx 8) ∧
    decode 0b1111100101100101 = .ok (.ldVxMem 9) := by decide

/-- E9, E11, E12, E15, E19, E20, E22, E23, E24. -/
theorem test_decode_illegal :
    decode 0x5AB1 = .error (.illegalOpcode 0x5AB1) ∧ decode 0x8AB8 = .error (.illegalOpcode 0x8AB8) ∧
    decode 0x8ABF = .error (.illegalOpcode 0x8ABF) ∧ decode 0x9ABF = .error (.illegalOpcode 0x9ABF) ∧
    decode 0xE19F = .error (.illegalOpcode 0xE19F) ∧ decode 0xE000 = .error (.illegalOpcode 0xE000) ∧
    decode 0xF000 = .error (.illegalOpcode 0xF000) ∧ decode 0xF130 = .error (.illegalOpcode 0xF130) ∧
    decode 0xFFFF = .error (.illegalOpcode 0xFFFF) := by decide

/-- A sequence of bytes shorter than an instruction is refused by name. -/
theorem test_decode_truncated : decodeBytes [0x60] = .error .truncated ∧ decodeBytes [] = .error .truncated := by decide

/-- The host's numbering: the table's match of a row is the word. -/
theorem test_decodeTableWord : decodeTableWord 16 0x00E0 = some .cls ∧ decodeTableWord 16 0xF165 = some (.ldVxMem 1) ∧
    decodeTableWord 16 0xFFFF = none := by decide

/-- The encoder, on the same words. -/
theorem test_encode : encode (.jp 0xABC) = 0x1ABC ∧ encode (.seByte 0xA 0x7F) = 0x3A7F ∧ encode (.shl 0xA 0xB) = 0x8ABE ∧
    encode (.drw 1 2 3) = 0xD123 ∧ encode (.addIVx 3) = 0xF31E ∧ encodeBytes (.jp 0x234) = [0x12, 0x34] := by decide

/-- The word the host places is the word that runs, from reset. -/
theorem test_withFetchWord :
    runs (State.reset.withFetchWord 16 0x6A05) (fun t => t.reg 0xA == 0x05) = true := by decide

/-! ## The Step event (C1 to C8) and the environment's events (K12 to K16, L1, L5) -/

theorem test_C1_halted : stepsTo (prog []) .halted (fun t => t.pc == 0x200 && t.fault == none) = true := by decide
theorem test_C3_odd_length : runs (prog [0x60]) (fun t => t.reg 0 == 0 && t.programEnd == 0x201) = true := by decide
theorem test_C4_fetch_fault :
    stepsTo { prog [] with pc := 0xFFF, programEnd := 0x1000 } (.fault (.memoryOutOfBounds 0x1000))
      (fun t => t.pc == 0xFFF && t.fault == some (.memoryOutOfBounds 0x1000)) = true := by decide
theorem test_C7_illegal :
    stepsTo (prog [0xFF, 0xFF, 0x60, 0x01]) (.fault (.illegalOpcode 0xFFFF)) (fun t => t.pc == 0x202) = true := by decide
theorem test_C7_latched :
    stepsTo { prog [0xFF, 0xFF, 0x60, 0x01] with pc := 0x202, fault := some (.illegalOpcode 0xFFFF) }
      (.fault (.illegalOpcode 0xFFFF)) (fun t => t.pc == 0x202 && t.reg 0 == 0) = true := by decide
theorem test_C8_odd_address :
    stepsTo ((prog [0x12, 0x01, 0x60, 0x07, 0x00]).setPc 0x201) .continued (fun t => t.pc == 0x203) = true := by decide
theorem test_K12_tick : (({ State.reset with dt := 3, st := 1 } : State).tick).dt = 2 ∧
    (({ State.reset with dt := 3, st := 1 } : State).tick).st = 0 ∧
    (({ State.reset with dt := 3, st := 1 } : State).tick).soundOn = false := by decide
theorem test_K15_tick_when_faulted : (({ State.reset with st := 2, fault := some .stackOverflow } : State).tick).st = 1 := by
  decide
theorem test_L1_load : (prog [0x12, 0x00]).byteAt 0x200 = 0x12 ∧ (prog [0x12, 0x00]).byteAt 0x201 = 0 ∧
    (prog [0x12, 0x00]).byteAt 0x04F = 0x80 ∧ (prog [0x12, 0x00]).byteAt 0x050 = 0 ∧
    (prog [0x12, 0x00]).programEnd = 0x202 := by decide
theorem test_L5_load_clears_the_fault :
    (({ State.reset with fault := some .stackOverflow, pc := 0x777 } : State).load [0x12, 0x00]).fault = none ∧
    (({ State.reset with fault := some .stackOverflow, pc := 0x777 } : State).load [0x12, 0x00]).pc = 0x200 := by decide
/-- An event the environment listed comes before the next `Step`, and is used up. -/
theorem test_schedule : (match step (({ prog [0x60, 0x05] with dt := 3 } : State).setSchedule [.tick]) with
    | .next t => t.dt == 2 && t.pc == 0x200 && t.env.schedule == []
    | _ => false) = true := by decide

/-! ## Control flow (F1 to F16) -/

theorem test_F1_jp : stepsTo (prog [0x12, 0x00]) .continued (fun t => t.pc == 0x200) = true := by decide
theorem test_F2_call :
    stepsTo (prog [0x23, 0x00]) .continued (fun t => t.pc == 0x300 && t.stack == [0x202] && t.sp == 1) = true := by decide
theorem test_F16_call_overflow : stepsTo (frames 16 (prog [0x23, 0x00])) (.fault .stackOverflow)
    (fun t => t.pc == 0x202 && t.sp == 16 && t.fault == some .stackOverflow) = true := by decide
theorem test_F3_ret : stepsTo ((prog [0x00, 0xEE]).setStack [0x0202, 0x0456]) .continued
    (fun t => t.pc == 0x456 && t.stack == [0x202]) = true := by decide
theorem test_F9_ret_underflow : stepsTo (prog [0x00, 0xEE]) (.fault .stackUnderflow)
    (fun t => t.pc == 0x202 && t.sp == 0 && t.fault == some .stackUnderflow) = true := by decide
theorem test_F4_jpV0 :
    stepsTo (regs [(0, 0x10)] (prog [0xB3, 0x00])) .continued (fun t => t.pc == 0x310) = true := by decide
theorem test_F5_jpV0_no_wrap :
    stepsTo (regs [(0, 0xFF)] (prog [0xBF, 0xFF])) .continued (fun t => t.pc == 0x10FE) = true := by decide
theorem test_F14_sys : runs (prog [0x01, 0x23]) (fun t => t.stack == [] && t.i == 0) = true := by decide
theorem test_F6_seByte :
    stepsTo (regs [(0xA, 0x7F)] (prog [0x3A, 0x7F])) .continued (fun t => t.pc == 0x204) = true := by decide
theorem test_F7_seByte_not : runs (regs [(0xA, 0x7E)] (prog [0x3A, 0x7F])) (fun _ => true) = true := by decide
theorem test_F8_sneByte :
    stepsTo (regs [(0xA, 0x7E)] (prog [0x4A, 0x7F])) .continued (fun t => t.pc == 0x204) = true := by decide
theorem test_F8_sneByte_not : runs (regs [(0xA, 0x7F)] (prog [0x4A, 0x7F])) (fun _ => true) = true := by decide
theorem test_F10_seReg :
    stepsTo (regs [(0xA, 0x33), (0xB, 0x33)] (prog [0x5A, 0xB0])) .continued (fun t => t.pc == 0x204) = true := by decide
theorem test_F10_seReg_not : runs (regs [(0xA, 0x33), (0xB, 0x34)] (prog [0x5A, 0xB0])) (fun _ => true) = true := by decide
theorem test_F12_sneReg :
    stepsTo (regs [(0xA, 0x33), (0xB, 0x34)] (prog [0x9A, 0xB0])) .continued (fun t => t.pc == 0x204) = true := by decide
theorem test_F13_sneReg_same : runs (regs [(0xA, 0x33)] (prog [0x9A, 0xA0])) (fun _ => true) = true := by decide

/-! ## Register, arithmetic, logic and random instructions (S2 to S5, A1 to A32, V1 to V14) -/

theorem test_A2_ldByte_VF : runs (prog [0x6F, 0x07]) (fun t => t.reg 15 == 0x07) = true := by decide
theorem test_A4_addByte_wraps :
    runs (regs [(0, 0xFF)] (prog [0x70, 0x01])) (fun t => t.reg 0 == 0 && t.reg 15 == 0) = true := by decide
theorem test_A7_ldReg :
    runs (regs [(1, 0x12), (2, 0x34)] (prog [0x81, 0x20])) (fun t => t.reg 1 == 0x34 && t.reg 2 == 0x34) = true := by decide
theorem test_A8_orReg : runs (regs [(1, 0xF0), (2, 0x0F), (15, 1)] (prog [0x81, 0x21]))
    (fun t => t.reg 1 == 0xFF && t.reg 15 == 1) = true := by decide
theorem test_A9_andReg : runs (regs [(1, 0xF0), (2, 0x3C), (15, 1)] (prog [0x81, 0x22]))
    (fun t => t.reg 1 == 0x30 && t.reg 15 == 1) = true := by decide
theorem test_A10_xorReg : runs (regs [(1, 0xFF), (2, 0x0F), (15, 1)] (prog [0x81, 0x23]))
    (fun t => t.reg 1 == 0xF0 && t.reg 15 == 1) = true := by decide
theorem test_S2_addReg : runs (regs [(1, 0xFF), (2, 0x01)] (prog [0x81, 0x24]))
    (fun t => t.reg 1 == 0 && t.reg 15 == 1) = true := by decide
theorem test_V1_addReg_VF :
    runs (regs [(15, 0xF0), (1, 0x20)] (prog [0x8F, 0x14])) (fun t => t.reg 15 == 1) = true := by decide
theorem test_S4_subReg : runs (regs [(1, 0x05), (2, 0x0A)] (prog [0x81, 0x25]))
    (fun t => t.reg 1 == 0xFB && t.reg 15 == 0) = true := by decide
theorem test_A16_subReg_equal : runs (regs [(1, 0x07), (2, 0x07)] (prog [0x81, 0x25]))
    (fun t => t.reg 1 == 0 && t.reg 15 == 1) = true := by decide
theorem test_A20_shr : runs (regs [(1, 0x01), (2, 0xFF)] (prog [0x81, 0x26]))
    (fun t => t.reg 1 == 0 && t.reg 15 == 1 && t.reg 2 == 0xFF) = true := by decide
theorem test_V10_shr_VF : runs (regs [(15, 0x07)] (prog [0x8F, 0x06])) (fun t => t.reg 15 == 0x03) = true := by decide
theorem test_A24_subnReg : runs (regs [(1, 0x05), (2, 0x0A)] (prog [0x81, 0x27]))
    (fun t => t.reg 1 == 0x05 && t.reg 15 == 1) = true := by decide
theorem test_A25_subnReg_borrow : runs (regs [(1, 0x0A), (2, 0x05)] (prog [0x81, 0x27]))
    (fun t => t.reg 1 == 0xFB && t.reg 15 == 0) = true := by decide
theorem test_A27_shl : runs (regs [(1, 0x80), (2, 0xFF)] (prog [0x81, 0x2E]))
    (fun t => t.reg 1 == 0 && t.reg 15 == 1 && t.reg 2 == 0xFF) = true := by decide
theorem test_V14_shl_VF : runs (regs [(15, 0x81)] (prog [0x8F, 0x0E])) (fun t => t.reg 15 == 0x02) = true := by decide
theorem test_A31_rnd : runs { prog [0xC3, 0x0F] with env := { Env.reset with rndIn := [0xA7, 0x55] } }
    (fun t => t.reg 3 == 0x07 && t.env.rndIn == [0x55] && t.env.draws == 1) = true := by decide

/-! ## Index register and memory (M1 to M16) -/

theorem test_M1_ldI : runs (idx 0xFFFF (prog [0xA2, 0xF0])) (fun t => t.i == 0x2F0) = true := by decide
theorem test_M3_addIVx_no_fault :
    runs (regs [(2, 1), (15, 7)] (idx 0x0FFF (prog [0xF2, 0x1E]))) (fun t => t.i == 0x1000 && t.reg 15 == 7) = true := by
  decide
theorem test_M4_addIVx_wraps : runs (regs [(2, 2)] (idx 0xFFFF (prog [0xF2, 0x1E]))) (fun t => t.i == 1) = true := by decide
theorem test_M5_ldFVx : runs (regs [(0, 0x0F)] (prog [0xF0, 0x29])) (fun t => t.i == 0x4B) = true := by decide
theorem test_M5_ldFVx_not_masked : runs (regs [(0, 0xFF)] (prog [0xF0, 0x29])) (fun t => t.i == 0x4FB) = true := by decide
theorem test_M7_ldBVx :
    runs (regs [(0, 0x7B)] (idx 0xFFD (prog [0xF0, 0x33]))) (fun t => t.bytesAt 0xFFD 3 == [1, 2, 3]) = true := by decide
theorem test_M8_ldBVx_out : stepsTo (regs [(0, 0x7B)] (idx 0xFFE (prog [0xF0, 0x33]))) (.fault (.memoryOutOfBounds 0x1000))
    (fun t => t.pc == 0x202 && t.bytesAt 0xFFE 2 == [0, 0]) = true := by decide
theorem test_M9_ldMemVx : runs (regs [(0, 0x11), (1, 0x22), (2, 0x33), (3, 0x44)] (idx 0x400 (prog [0xF2, 0x55])))
    (fun t => t.bytesAt 0x400 4 == [0x11, 0x22, 0x33, 0] && t.i == 0x400) = true := by decide
theorem test_M11_ldMemVx_out : stepsTo (regs [(0, 9)] (idx 0xFF1 (prog [0xFF, 0x55]))) (.fault (.memoryOutOfBounds 0x1000))
    (fun t => t.byteAt 0xFF1 == 0 && t.mem == (prog [0xFF, 0x55]).mem) = true := by decide
theorem test_M13_ldVxMem_out :
    stepsTo (idx 0x2345 (prog [0xF0, 0x65])) (.fault (.memoryOutOfBounds 0x2345)) (fun t => t.reg 0 == 0) = true := by decide
theorem test_M14_ldVxMem : runs (regs [(3, 0x99)] (idx 0x300 (bytes 0x300 [2, 5, 4] (prog [0xF2, 0x65]))))
    (fun t => t.reg 0 == 2 && t.reg 1 == 5 && t.reg 2 == 4 && t.reg 3 == 0x99 && t.i == 0x300) = true := by decide
/-- Writing back what an unlisted address reads as removes the entry. -/
theorem test_memory_canonical : (bytes 0x300 [0] (bytes 0x300 [7] (prog []))).mem = (prog []).mem := by decide

/-! ## Display (D1 to D10) -/

theorem test_D9_cls : runs { regs [(15, 1)] (prog [0x00, 0xE0]) with fb := Vector.replicate 32 0xFF }
    (fun t => litIn t 0 == [] && litIn t 31 == [] && t.dirty && t.reg 15 == 1) = true := by decide
theorem test_D1_drw_wraps : runs (regs [(0, 60)] (idx 0x300 (bytes 0x300 [0xFF] (prog [0xD0, 0x11]))))
    (fun t => litIn t 0 == [0, 1, 2, 3, 60, 61, 62, 63] && litIn t 1 == [] && t.reg 15 == 0 && t.dirty) = true := by decide
theorem test_D3_drw_collides :
    runs (idx 0x300 (bytes 0x300 [0xC0] { prog [0xD0, 0x11] with fb := (Vector.replicate 32 0).set 0 1 }))
      (fun t => litIn t 0 == [1] && t.reg 15 == 1) = true := by decide

/-! ## Timers and keys (K1 to K11) -/

theorem test_K3_skp : stepsTo (regs [(3, 0x1A)] (keys 0x0400 (prog [0xE3, 0x9E]))) .continued (fun t => t.pc == 0x204) = true := by
  decide
theorem test_K2_skp_not : runs (regs [(3, 0x05)] (keys 0x0010 (prog [0xE3, 0x9E]))) (fun _ => true) = true := by decide
theorem test_K4_sknp : stepsTo (regs [(3, 0x05)] (prog [0xE3, 0xA1])) .continued (fun t => t.pc == 0x204) = true := by decide
theorem test_K4_sknp_not : runs (regs [(3, 0x05)] (keys 0x0020 (prog [0xE3, 0xA1]))) (fun _ => true) = true := by decide
theorem test_K5_blocked :
    stepsTo (regs [(5, 0x77)] (prog [0xF5, 0x0A])) .blocked (fun t => t.pc == 0x200 && t.reg 5 == 0x77) = true := by decide
theorem test_K5_key : runs (keys 0x0088 (prog [0xF5, 0x0A])) (fun t => t.reg 5 == 3) = true := by decide
theorem test_K8_ldVxDt : runs { prog [0xF4, 0x07] with dt := 0x3C } (fun t => t.reg 4 == 0x3C && t.dt == 0x3C) = true := by
  decide
theorem test_K9_ldDtVx : runs (regs [(0, 0x3C)] { prog [0xF0, 0x15] with dt := 5 }) (fun t => t.dt == 0x3C) = true := by decide
theorem test_K10_ldStVx : runs (regs [(1, 2)] (prog [0xF1, 0x18])) (fun t => t.st == 2 && t.soundOn) = true := by decide
theorem test_K11_ldStVx_off : runs { prog [0xF1, 0x18] with st := 9 } (fun t => t.st == 0 && !t.soundOn) = true := by decide

/-! ## Witnesses: the hypotheses of each obligation can be met -/

/-- A next state with a decidable property, found by evaluation. -/
theorem next_of {o : Out} {p : State → Prop} [DecidablePred p]
    (h : (match o with | .next t => decide (p t) | _ => false) = true) : ∃ t, o = .next t ∧ p t := by
  cases o with
  | next t => exact ⟨t, rfl, of_decide_eq_true h⟩
  | fault f => cases h
  | refused r => cases h

/-- A running core whose `pc` is `a`, below `program_end`, the word `w` there. -/
def at' (a : Word) (w : Word) (s : State) : State :=
  { bytes a.toNat (wordBytes w) s with pc := a, programEnd := 0x1000 }

theorem test_witness_DecodeOfEncode : (Instr.drw 15 15 15).wf = true ∧ (Instr.sys 0xFFF).wf = true := by decide
theorem test_witness_EncodeOfDecode : decode 0xFF65 = .ok (.ldVxMem 15) ∧ decode 0x0000 = .ok (.sys 0) := by decide
theorem test_witness_IllegalWordsExhaustively :
    (prog [0x5A, 0xB1]).fetches ∧
    decode (prog [0x5A, 0xB1]).fetchWord = .error (.illegalOpcode (prog [0x5A, 0xB1]).fetchWord) := by
  unfold State.fetches; decide
/-- Both clauses, at the last `pc` whose two bytes exist. -/
theorem test_witness_StepRunsDecodedInstruction :
    let s := at' 0xFFE 0x6A05 (prog [])
    (s.env.schedule = [] ∧ s.fault = none ∧ s.pc.toNat < s.programEnd.toNat ∧ s.pc.toNat + 1 ≤ 0xFFF) ∧
    decode (s.byteAt s.pc.toNat ++ s.byteAt (s.pc.toNat + 1) : BitVec (8 + 8)) = .ok (.ldByte 0xA 5) ∧
    (Instr.ldByte 0xA 5).wf = true ∧
    [s.byteAt s.pc.toNat, s.byteAt (s.pc.toNat + 1)] = encodeBytes (.ldByte 0xA 5) := by decide
theorem test_witness_StepRunsNextEvent :
    State.reset.env.schedule = [] ∧ (State.reset.setSchedule [.tick, .step]).env.schedule = .tick :: [.step] := ⟨rfl, rfl⟩
theorem test_witness_FetchIsBigEndian : ((0x12 : Byte) :: 0x34 :: List.replicate 3582 0).length ≤ 3584 := by
  rw [List.length_cons, List.length_cons, List.length_replicate]
/-- A latched fault, an event that leaves it, and the load that clears it. -/
theorem test_witness_LatchedFaultRepeats :
    (∃ t, runEvent .tick { State.reset with fault := some .stackOverflow } = .next t ∧ t.fault = some .stackOverflow) ∧
    (∃ t, runEvent (.load []) { State.reset with fault := some .stackOverflow } = .next t ∧ t.fault = none) :=
  ⟨next_of (by decide), next_of (by decide)⟩
theorem test_witness_HaltsAtProgramEnd :
    (State.reset.fault = none ∧ State.reset.programEnd.toNat ≤ State.reset.pc.toNat) ∧
    ((prog [0x60]).fault = none ∧ (prog [0x60]).pc.toNat < (prog [0x60]).programEnd.toNat ∧
      ∃ t, stepEvent (prog [0x60]) = .next t ∧ t.pc = 0x202) :=
  ⟨by decide, by decide, by decide, next_of (by decide)⟩
theorem test_witness_FetchOrItsOneFault :
    (let s := at' 0xFFE 0x6A05 (prog [])
     s.fault = none ∧ s.pc.toNat < s.programEnd.toNat ∧ s.programEnd.toNat ≤ 0x1000 ∧ s.pc.toNat ≠ 0xFFF ∧
     (0x6A05 : Word).toNat = (s.byteAt s.pc.toNat).toNat * 256 + (s.byteAt (s.pc.toNat + 1)).toNat ∧
     decode 0x6A05 = .ok (.ldByte 0xA 5)) ∧
    (let s : State := { prog [] with pc := 0xFFF, programEnd := 0x1000 }
     s.fault = none ∧ s.pc.toNat < s.programEnd.toNat ∧ s.programEnd.toNat ≤ 0x1000 ∧ s.pc.toNat = 0xFFF) := by decide
theorem test_witness_IllegalWordFaults :
    (at' 0xFFE 0xFFFF (prog [])).fetches ∧ ∀ i, decode (at' 0xFFE 0xFFFF (prog [])).fetchWord ≠ .ok i := by
  have h : decode (at' 0xFFE 0xFFFF (prog [])).fetchWord = .error (.illegalOpcode 0xFFFF) := by decide
  exact ⟨by unfold State.fetches; decide, fun i => by rw [h]; exact fun e => by cases e⟩
/-- A fault of an instruction at the last fetchable address, and the fault of the fetch. -/
theorem test_witness_FaultsArePrecise :
    ((at' 0xFFE 0x00EE (prog [])).fault = none ∧ (at' 0xFFE 0x00EE (prog [])).pc.toNat + 1 ≤ 0xFFF ∧
      ∃ t, stepEvent (at' 0xFFE 0x00EE (prog [])) = .next t ∧ t.fault = some .stackUnderflow) ∧
    (let s : State := { prog [] with pc := 0xFFF, programEnd := 0x1000 }
     s.fault = none ∧ 0xFFF < s.pc.toNat + 1 ∧
      ∃ t, stepEvent s = .next t ∧ t.fault = some (.memoryOutOfBounds 0x1000)) :=
  ⟨⟨by decide, by decide, next_of (by decide)⟩, by decide, by decide, next_of (by decide)⟩
/-- A step that touches the delay timer, one that touches the sound timer, one from a dirty state, one that takes a random
byte, one that does not. -/
theorem test_witness_StepNeverTouches :
    (∃ t, stepEvent (regs [(0, 7)] (prog [0xF0, 0x15])) = .next t ∧ t.dt = 7) ∧
    (∃ t, stepEvent (regs [(0, 7)] (prog [0xF0, 0x18])) = .next t ∧ t.st = 7) ∧
    (∃ t, stepEvent { prog [0x00, 0xE0] with dirty := true } = .next t ∧ t.dirty = true) ∧
    ((prog [0xC0, 0xFF]).dispatches (.rnd 0 0xFF) ∧ ∃ t, stepEvent (prog [0xC0, 0xFF]) = .next t ∧ t.env.draws = 1) ∧
    (¬ (∃ x nn, State.reset.dispatches (.rnd x nn)) ∧ ∃ t, stepEvent State.reset = .next t ∧ t.env.draws = 0) :=
  ⟨next_of (by decide), next_of (by decide), next_of (by decide),
    ⟨by unfold State.dispatches State.fetches; decide, next_of (by decide)⟩,
    fun ⟨_, _, ⟨_, h, _⟩, _⟩ => absurd h (by decide), next_of (by decide)⟩
/-- Each result, and each form of the last clause that has a case of its own. -/
theorem test_witness_PcAfterStep :
    (∃ t, stepEvent State.reset = .next t ∧ t.env.result = some .halted) ∧
    (∃ t, stepEvent (prog [0xF5, 0x0A]) = .next t ∧ t.env.result = some .blocked) ∧
    (∃ t, stepEvent { State.reset with fault := some .stackOverflow } = .next t ∧
      ({ State.reset with fault := some .stackOverflow } : State).fault ≠ none) ∧
    (∃ t, stepEvent (prog [0x00, 0xEE]) = .next t ∧ t.fault ≠ none) ∧
    (∃ t, stepEvent { prog [] with pc := 0xFFF, programEnd := 0x1000 } = .next t ∧ t.fault ≠ none) ∧
    (∃ t, stepEvent (prog [0x1F, 0xFF]) = .next t ∧ t.env.result = some .continued) ∧
    (∃ t, stepEvent (prog [0x2F, 0xFF]) = .next t ∧ t.env.result = some .continued) ∧
    (∃ t, stepEvent (regs [(0, 0xFF)] (prog [0xBF, 0xFF])) = .next t ∧ t.env.result = some .continued) ∧
    (∃ t, stepEvent ((prog [0x00, 0xEE]).setStack [0x202]) = .next t ∧ t.env.result = some .continued) ∧
    (∃ t, stepEvent (prog [0x30, 0x00]) = .next t ∧ t.env.result = some .continued) ∧
    (∃ t, stepEvent (keys 1 (prog [0xE0, 0x9E])) = .next t ∧ t.env.result = some .continued) ∧
    (∃ t, stepEvent (prog [0x60, 0x00]) = .next t ∧ t.env.result = some .continued) :=
  ⟨next_of (by decide), next_of (by decide), next_of (by decide), next_of (by decide), next_of (by decide),
    next_of (by decide), next_of (by decide), next_of (by decide), next_of (by decide), next_of (by decide),
    next_of (by decide), next_of (by decide)⟩
/-- No key down, and the greatest key alone. -/
theorem test_witness_BlockedOnlyByKeyWait :
    (∃ t, stepEvent (prog [0xF5, 0x0A]) = .next t ∧ t.env.result = some .blocked) ∧
    (prog [0xF5, 0x0A]).dispatches (.ldVxK 5) ∧ (∀ k, k < 16 → (prog [0xF5, 0x0A]).env.keys.getLsbD k = false) ∧
    (keys 0x8000 (prog [0xF5, 0x0A])).dispatches (.ldVxK 5) ∧
    ((keys 0x8000 (prog [0xF5, 0x0A])).env.keys.getLsbD 15 = true ∧
      ∀ j, j < 15 → (keys 0x8000 (prog [0xF5, 0x0A])).env.keys.getLsbD j = false) :=
  ⟨next_of (by decide), by unfold State.dispatches State.fetches; decide, by decide,
    by unfold State.dispatches State.fetches; decide, by decide, by decide⟩
/-- A form that completes with a store up to the last address, and one that faults. -/
theorem test_witness_WritesOnlyWhatTheTableSays :
    (idx 0xFF0 (prog [])).mem.wf ∧
    (∃ t, exec (.ldMemVx 15) (regs [(15, 1)] (idx 0xFF0 (prog []))) = .next t ∧ t.fault = none ∧ t.byteAt 0xFFF = 1) ∧
    (∃ t, exec .ret (prog []) = .next t ∧ t.fault = some .stackUnderflow) :=
  ⟨by decide, next_of (by decide), next_of (by decide)⟩
theorem test_witness_StackMovesByOneFrame :
    (∃ t, stepEvent State.reset = .next t ∧ t.stack = []) ∧
    (∃ t, stepEvent (frames 15 (prog [0x23, 0x00])) = .next t ∧ t.sp = 16) ∧
    (∃ t, stepEvent (frames 1 (prog [0x00, 0xEE])) = .next t ∧ t.sp = 0) :=
  ⟨next_of (by decide), next_of (by decide), next_of (by decide)⟩
theorem test_witness_NoStepReadsSoundTimerOrDirty : ∃ t, stepEvent (prog [0xF1, 0x18]) = .next t ∧ t.st = 0 :=
  next_of (by decide)
/-- A state at the ends of the invariant's ranges, and a step of it. -/
theorem test_witness_StepKeepsInvariant :
    let s : State := { frames 16 (regs [(0, 0xFF)] (prog [0xBF, 0xFF])) with
      stack := List.replicate 16 0x1001, programEnd := 0x1000, dirty := true }
    Inv s ∧ ∃ t, step s = .next t ∧ t.pc = 0x10FE := by
  refine ⟨⟨by decide, by decide, ?_, by decide, by decide, by decide, ?_⟩, next_of (by decide)⟩
  · intro a h
    rw [List.eq_of_mem_replicate h]
    decide
  · intro f h; cases h
/-- Reachable: reset, an event of it, and a change of the environment. -/
theorem test_witness_ReachableStatesHaveInvariant :
    Reachable State.reset ∧ Reachable (prog [0x60, 0x05]) ∧
    Reachable { State.reset with env := { Env.reset with keys := 0xFFFF } } :=
  ⟨.reset, .event (.load [0x60, 0x05]) .reset rfl, .environment _ .reset⟩
theorem test_witness_LoadDefinesEveryElement :
    ([] : List Byte).length ≤ 3584 ∧ (List.replicate 3584 (0xAA : Byte)).length ≤ 3584 := by
  rw [List.length_replicate]; decide
theorem test_witness_LoadRefusesOnlyTooLarge :
    (List.replicate 3585 (0xAA : Byte)).length > 3584 ∧ (List.replicate 3584 (0xAA : Byte)).length ≤ 3584 ∧
    ([] : List Byte).length ≤ 3584 := by
  rw [List.length_replicate, List.length_replicate]; decide
theorem test_witness_TickCountsDown : ({ State.reset with st := 1 } : State).st = 1 := rfl
theorem test_witness_AddWithCarry : (14 : Reg) ≠ 15 ∧ (0 : Reg) ≠ 15 := by decide
theorem test_witness_SubtractBothWays : (14 : Reg) ≠ 15 ∧ (0 : Reg) ≠ 15 := by decide
theorem test_witness_ShiftInPlace : (14 : Reg) ≠ 15 := by decide
theorem test_witness_FlagRegisterAsOperand : (0 : Reg) ≠ 15 ∧ (14 : Reg) ≠ 15 := by decide
/-- A byte waiting, none waiting, and a mask bit that is 0. -/
theorem test_witness_RandomByteMasked :
    ({ State.reset with env := { Env.reset with rndIn := [0xA7] } } : State).env.rndIn = 0xA7 :: [] ∧
    State.reset.env.rndIn = [] ∧ (0x0F : Byte).getLsbD 7 = false := ⟨rfl, rfl, rfl⟩
/-- The last `I` in range, and the first out of it. -/
theorem test_witness_DecimalStore :
    (idx 0xFFD State.reset).mem.wf ∧ (idx 0xFFD State.reset).i.toNat + 2 ≤ 0xFFF ∧
    (idx 0xFFE State.reset).mem.wf ∧ 0xFFF < (idx 0xFFE State.reset).i.toNat + 2 := by decide
theorem test_witness_RegisterStore :
    (idx 0xFF0 State.reset).mem.wf ∧ (idx 0xFF0 State.reset).i.toNat + (15 : Reg).val ≤ 0xFFF ∧ (15 : Reg) ≤ 15 ∧
    (idx 0xFF1 State.reset).mem.wf ∧ 0xFFF < (idx 0xFF1 State.reset).i.toNat + (15 : Reg).val := by decide
theorem test_witness_RegisterLoad :
    (idx 0xFFF State.reset).i.toNat + (0 : Reg).val ≤ 0xFFF ∧ (0 : Reg) ≤ 0 ∧ (0 : Reg) < 1 ∧
    0xFFF < (idx 0x1000 State.reset).i.toNat + (0 : Reg).val := by decide
theorem test_witness_RangeCheckBeforeAnyEffect :
    0xFFF < (idx 0xFFE State.reset).i.toNat + 2 ∧ 0xFFF < (idx 0xFF1 State.reset).i.toNat + (15 : Reg).val ∧
    (1 ≤ (2 : BitVec 4).toNat ∧ 0xFFF < (idx 0xFFF State.reset).i.toNat + (2 : BitVec 4).toNat - 1) ∧
    (let s : State := { State.reset with pc := 0xFFF, programEnd := 0x1000 }
     s.fault = none ∧ s.pc.toNat = 0xFFF ∧ s.programEnd.toNat = 0x1000) := by decide
theorem test_witness_StoreThenLoadRestores :
    (idx 0xFF0 State.reset).mem.wf ∧ (idx 0xFF0 State.reset).i.toNat + (15 : Reg).val ≤ 0xFFF ∧
    ∃ t, exec (.ldMemVx 15) (idx 0xFF0 State.reset) = .next t ∧ (idx 0xFF0 State.reset).mem = t.mem :=
  ⟨by decide, by decide, next_of (by decide)⟩
/-- `FX55` over the two bytes after it, at the end of memory. -/
theorem test_witness_StoreIsSeenByNextFetch :
    let s := regs [(0, 0x6A), (1, 0x05)] (idx 0xFFE (at' 0xFFC 0xF155 (prog [])))
    s.mem.wf ∧ s.dispatches (.ldMemVx 1) ∧ 1 ≤ (1 : Reg).val ∧ s.i = s.pc + 2 ∧ s.i.toNat + (1 : Reg).val ≤ 0xFFF ∧
    s.i.toNat < s.programEnd.toNat ∧ decode (s.reg 0 ++ s.reg 1 : BitVec (8 + 8)) = .ok (.ldByte 0xA 5) := by
  unfold State.dispatches State.fetches; decide
/-- `N = 0` anywhere, the last row in range, the first out of it, a lit pixel under the sprite, none, and a pixel the sprite
does not meet. -/
theorem test_witness_DrawFlipsAndDetects :
    (0 : BitVec 4) = 0 ∧ (idx 0xFFF State.reset).i.toNat + (1 : BitVec 4).toNat - 1 ≤ 0xFFF ∧
    (1 ≤ (2 : BitVec 4).toNat ∧ 0xFFF < (idx 0xFFF State.reset).i.toNat + (2 : BitVec 4).toNat - 1) ∧
    (idx 0 State.reset).spriteLights 63 31 1 31 63 ∧
    (∃ py px, ({ State.reset with fb := Vector.replicate 32 1 } : State).spriteLights 0 0 1 py px ∧
      ({ State.reset with fb := Vector.replicate 32 1 } : State).pixel py px = true) ∧
    (¬ ∃ py px, (idx 0x300 State.reset).spriteLights 0 0 1 py px ∧ (idx 0x300 State.reset).pixel py px = true) ∧
    ¬ (idx 0x300 State.reset).spriteLights 0 0 1 0 0 := by
  refine ⟨by decide, by decide, by decide, ⟨0, by decide, 0, by decide, by decide, by decide, by decide⟩,
    ⟨0, 0, ⟨0, by decide, 0, by decide, by decide, by decide, by decide⟩, by decide⟩, ?_, ?_⟩
  · rintro ⟨py, px, -, h⟩
    simp [State.pixel, Screen.pixel, idx, State.setI, State.reset] at h
  · rintro ⟨row, h1, col, h2, h3, -⟩
    obtain rfl : row = 0 := by omega
    have : (idx 0x300 State.reset).byteAt ((idx 0x300 State.reset).i.toNat + 0) = 0 := by decide
    rw [this] at h3
    simp at h3
theorem test_witness_DoubleDrawRestores : (14 : Reg) ≠ 15 ∧ (0 : Reg) ≠ 15 ∧
    ((0 : BitVec 4) = 0 ∨ (idx 0xFFFF State.reset).i.toNat + (0 : BitVec 4).toNat - 1 ≤ 0xFFF) ∧
    ((15 : BitVec 4) = 0 ∨ (idx 0xFF1 State.reset).i.toNat + (15 : BitVec 4).toNat - 1 ≤ 0xFFF) := by decide
theorem test_witness_DrawWrapsAtTheEdges :
    (let s := regs [(0, 60)] (idx 0xFFF (bytes 0xFFF [0xFF] State.reset))
     (0 : Reg) ≠ 15 ∧ (14 : Reg) ≠ 15 ∧ (s.reg 0).toNat % 64 = 60 ∧ s.i.toNat ≤ 0xFFF ∧ s.byteAt s.i.toNat = 0xFF ∧ ∀ py px, s.pixel py px = false) ∧
    (let s := regs [(1, 30)] (idx 0xFFC (bytes 0xFFC [0x80, 0x80, 0x80, 0x80] State.reset))
     (0 : Reg) ≠ 15 ∧ (1 : Reg) ≠ 15 ∧ (s.reg 1).toNat % 32 = 30 ∧ s.i.toNat + 3 ≤ 0xFFF ∧ (∀ r, r < 4 → s.byteAt (s.i.toNat + r) = 0x80) ∧
     ∀ py px, s.pixel py px = false) := by
  refine ⟨⟨by decide, by decide, by decide, by decide, by decide, ?_⟩,
    ⟨by decide, by decide, by decide, by decide, by decide, ?_⟩⟩ <;>
  · intro py px
    simp [State.pixel, Screen.pixel, regs, idx, bytes, State.setReg, State.setI, State.storeBytes, State.reset]
theorem test_witness_JumpsAndNoOperation : (0x0E1 : BitVec 12) ≠ 0x0E0 ∧ (0x0E1 : BitVec 12) ≠ 0x0EE := by decide
theorem test_witness_CallPushesOrOverflows : (frames 15 State.reset).sp < 16 ∧ (frames 16 State.reset).sp = 16 := by decide
theorem test_witness_ReturnPopsOrUnderflows :
    (frames 1 State.reset).stack = [] ++ [0x0202] ∧ (frames 0 State.reset).sp = 0 := by decide
theorem test_witness_ReturnUndoesCall : (frames 15 State.reset).sp < 16 := by decide
theorem test_witness_SixteenCallsNest :
    State.reset.stack = [] ∧ (List.replicate 16 (0x300 : BitVec 12)).length ≤ 16 ∧
    (List.replicate 16 (0x300 : BitVec 12)).length = 16 := by decide
theorem test_witness_KeyWait :
    (∀ k, k < 16 → State.reset.env.keys.getLsbD k = false) ∧
    ((keys 0x8000 State.reset).env.keys.getLsbD 15 = true ∧
      ∀ j, j < 15 → (keys 0x8000 State.reset).env.keys.getLsbD j = false) := by decide
/-- A waiting core, one whose key is down, and a halted one. -/
theorem test_witness_WaitingIsBlocked :
    (prog [0xF5, 0x0A]).waiting = true ∧ (keys 1 (prog [0xF5, 0x0A])).waiting = false ∧ (prog []).waiting = false ∧
    ∃ t, stepEvent (prog [0xF5, 0x0A]) = .next t ∧ t.env.result = some .blocked :=
  ⟨by decide, by decide, by decide, next_of (by decide)⟩

end Sys2Proof.Tests
end

section
/-! PROOFS of the family spec/10_state.md: how a `Step` moves the call stack (R27, R28), and the events `SetKeys` and
`ClearDirty` (R53, R54). -/

namespace Sys2Proof.Machine

/-! ## What each operation does to the stack -/

/-- What a known next state did to the stack; most updates show it by `rfl`. -/
theorem stack_of_next {s u t : State} (h : (.next u : Out) = .next t) (hu : u.stack = s.stack := by rfl) :
    t.stack = s.stack := by
  rwa [← Host.Outcome.next.inj h]

/-- Taking a fault pushes and pops nothing (R256). -/
theorem raise_stack {f : Fault} {s t : State} (h : raise f s = .next t) : t.stack = s.stack :=
  stack_of_next ((raise_eq f s).symm.trans h)

/-- A guarded access leaves the stack alone, whether it goes on or faults, if the state it goes on to does. -/
theorem guardRange_stack {base n : Nat} {s u t : State} (hu : u.stack = s.stack)
    (h : guardRange base n s (.next u) = .next t) : t.stack = s.stack := by
  rcases guardRange_cases base n s (.next u) with ⟨-, hg⟩ | ⟨-, -, hg⟩ <;> rw [hg] at h
  · exact stack_of_next h hu
  · exact raise_stack h

/-- The forms whose row in R37's table does not name the stack leave it alone. -/
theorem exec_stack {i : Instr} {s t : State} (hi : Piece.stack ∉ writes i) (h : exec i s = .next t) :
    t.stack = s.stack := by
  cases i with
  | call | ret => simp [writes] at hi
  | drw | ldBVx | ldMemVx | ldVxMem =>
    simp only [exec_drw, exec_ldBVx, exec_ldMemVx, exec_ldVxMem] at h
    exact guardRange_stack (by simp) h
  | ldVxK x =>
    cases hk : firstKey s.env.keys with
    | none => exact stack_of_next ((exec_ldVxK_blocked x hk).symm.trans h)
    | some k => exact stack_of_next ((exec_ldVxK_key x hk).symm.trans h)
  | _ => exact stack_of_next h (by simp)

/-- `2NNN` pushes `pc` below 16 frames, and else overflows and leaves the stack alone (R144, R252). -/
theorem exec_call_stack {nnn : BitVec 12} {s t : State} (h : exec (.call nnn) s = .next t) :
    t.stack = s.stack ∨ (s.sp < 16 ∧ t.stack = s.stack ++ [s.pc]) := by
  rw [exec_call] at h
  split at h
  next => exact .inl (raise_stack h)
  next hsp => exact .inr ⟨by omega, by rw [← Host.Outcome.next.inj h]; rfl⟩

/-- `00EE` pops the last entry into `pc`, and on an empty stack underflows and leaves it alone (R140, R253). -/
theorem exec_ret_stack {s t : State} (h : exec .ret s = .next t) :
    t.stack = s.stack ∨ s.stack = t.stack ++ [t.pc] := by
  rcases exec_ret_cases s with ⟨-, hr⟩ | ⟨l, a, hs, hr⟩ <;> rw [hr] at h
  · exact .inl (raise_stack h)
  · exact .inr (by rw [hs, ← Host.Outcome.next.inj h]; rfl)

/-! ## The stack over one `Step` (R28) -/

/-- Everything a `Step` can do to the stack. -/
theorem stepEvent_stack_cases {s t : State} (h : stepEvent s = .next t) :
    t.stack = s.stack ∨
    (∃ nnn, s.dispatches (.call nnn) ∧ s.sp < 16 ∧ t.stack = s.stack ++ [s.pc + 2]) ∨
    (s.dispatches .ret ∧ s.stack = t.stack ++ [t.pc]) := by
  rcases stepEvent_cases s with ⟨f, -, hs⟩ | ⟨-, -, hs⟩ | ⟨-, -, -, hs⟩ | ⟨-, -, hs⟩ | ⟨i, hi, hs⟩ <;> rw [hs] at h
  · exact .inl (stack_of_next h)
  · exact .inl (stack_of_next h)
  · exact .inl (raise_stack h)
  · exact .inl ((raise_stack h).trans s.advance_stack)
  · by_cases hw : Piece.stack ∈ writes i
    · cases i with
      | call nnn => exact (exec_call_stack h).imp_right fun hp => .inl ⟨nnn, hi, hp⟩
      | ret => exact (exec_ret_stack h).imp_right fun hp => .inr ⟨hi, hp⟩
      | _ => simp [writes] at hw
    · exact .inl ((exec_stack hw h).trans s.advance_stack)

/-- Settles O18: the three cases of `stepEvent_stack_cases`, counted. -/
theorem stackMovesByOneFrame : Obligations.StackMovesByOneFrame := by
  refine ⟨rfl, fun s t h => ⟨rfl, ?_⟩⟩
  rcases stepEvent_stack_cases h with hst | ⟨nnn, hc, hlt, hst⟩ | ⟨hr, hst⟩
  · exact ⟨fun hle => by rwa [State.sp, hst], .inl hst⟩
  · have hsp : t.sp = s.sp + 1 := by simp [State.sp, hst]
    exact ⟨fun _ => by omega, .inr (.inl ⟨nnn, hc, hst, hsp⟩)⟩
  · have hsp : s.sp = t.sp + 1 := by simp [State.sp, hst]
    exact ⟨fun hle => by omega, .inr (.inr ⟨hr, hst, hsp⟩)⟩

/-! ## The events of the environment (R53, R54) -/

/-- Settles O26: in every status each of the two events is the one record update its rule names. -/
theorem setKeysAndClearDirty : Obligations.SetKeysAndClearDirty :=
  fun _ _ => ⟨rfl, rfl⟩

end Sys2Proof.Machine
end

section
/-! PROOFS of the family spec/20_memory.md: the byte order of the fetch (R62), and the range check that comes before every
effect of an accessing form and of the fetch (R64, R77, R254). -/

namespace Sys2Proof.Machine

/-! ## The byte order of the fetch (R62) -/

/-- Two bytes joined are a number with the first as its high byte. -/
theorem toNat_append_byte (hi lo : Byte) : (hi ++ lo : BitVec (8 + 8)).toNat = 256 * hi.toNat + lo.toNat := by
  rw [BitVec.toNat_append, ← Nat.shiftLeft_add_eq_or_of_lt lo.isLt, Nat.shiftLeft_eq]
  omega

theorem toNat_fetchWord (s : State) :
    s.fetchWord.toNat = 256 * (s.byteAt s.pc.toNat).toNat + (s.byteAt (s.pc.toNat + 1)).toNat :=
  toNat_append_byte _ _

/-! ## What a successful load leaves (R290, R291, R293) -/

/-- A ROM of at most 3584 bytes is accepted: the reset state, with the ROM's image and length in it. -/
theorem load_of_le (s : State) {rom : List Byte} (h : rom.length ≤ 3584) :
    s.load rom =
      { State.reset with
        mem := Memory.image 0x200 rom
        programEnd := BitVec.ofNat 16 (0x200 + rom.length)
        env := { s.env with result := none, loadResult := .ok } } :=
  if_neg (Nat.not_lt.mpr h)

/-- Byte `k` of the ROM stands at 0x200 + `k`; every other address holds its reset content. -/
theorem byteAt_load (s : State) {rom : List Byte} (h : rom.length ≤ 3584) (a : Nat) :
    (s.load rom).byteAt a =
      if 0x200 ≤ a ∧ a < 0x200 + rom.length then rom.getD (a - 0x200) 0 else Memory.initial a := by
  rw [load_of_le s h]
  exact Memory.read_image a

/-- After a successful load the fetch reads the first two bytes of the ROM. -/
theorem toNat_fetchWord_load (s : State) {b0 b1 : Byte} {rom : List Byte} (h : (b0 :: b1 :: rom).length ≤ 3584) :
    (s.load (b0 :: b1 :: rom)).fetchWord.toNat = 256 * b0.toNat + b1.toNat := by
  have hpc : (s.load (b0 :: b1 :: rom)).pc.toNat = 0x200 := by rw [load_of_le s h]; rfl
  have hlen : (b0 :: b1 :: rom).length = rom.length + 2 := rfl
  rw [toNat_fetchWord, hpc, byteAt_load s h, byteAt_load s h, if_pos (by omega), if_pos (by omega)]
  rfl

/-- Settles O7: the word at `pc` is its two bytes joined, and after a load they are the first two bytes of the ROM. -/
theorem fetchIsBigEndian : Obligations.FetchIsBigEndian :=
  ⟨toNat_fetchWord, fun s _ _ _ h => ⟨s.load _, rfl, toNat_fetchWord_load s h⟩⟩

/-! ## The range check before any effect (R77, R254) -/

/-- An access to `n` bytes from `base`, the last of them above 0xFFF, changes nothing but the latch. -/
theorem guardRange_faulted {base n : Nat} (s : State) (go : Out) (h1 : 1 ≤ n) (h2 : 0xFFF < base + n - 1) :
    guardRange base n s go = .next (s.faulted (.memoryOutOfBounds (max base 0x1000))) :=
  guardRange_out s go h1 (by omega)

theorem exec_ldBVx_out (x : Reg) {s : State} (h : 0xFFF < s.i.toNat + 2) :
    exec (.ldBVx x) s = .next (s.faulted (.memoryOutOfBounds (max s.i.toNat 0x1000))) :=
  guardRange_faulted s _ (by decide) h

theorem exec_ldMemVx_out {x : Reg} {s : State} (h : 0xFFF < s.i.toNat + x.val) :
    exec (.ldMemVx x) s = .next (s.faulted (.memoryOutOfBounds (max s.i.toNat 0x1000))) :=
  guardRange_faulted s _ (Nat.le_add_left 1 x.val) h

theorem exec_ldVxMem_out {x : Reg} {s : State} (h : 0xFFF < s.i.toNat + x.val) :
    exec (.ldVxMem x) s = .next (s.faulted (.memoryOutOfBounds (max s.i.toNat 0x1000))) :=
  guardRange_faulted s _ (Nat.le_add_left 1 x.val) h

theorem exec_drw_out (x y : Reg) {n : BitVec 4} {s : State} (h1 : 1 ≤ n.toNat) (h2 : 0xFFF < s.i.toNat + n.toNat - 1) :
    exec (.drw x y n) s = .next (s.faulted (.memoryOutOfBounds (max s.i.toNat 0x1000))) :=
  guardRange_faulted s _ h1 h2

/-- `DXYN` runs to its end when it reads no byte, whatever `I` holds, or when every byte it reads exists (R215). -/
theorem exec_drw_in (x y : Reg) {n : BitVec 4} {s : State} (h : n.toNat = 0 ∨ s.i.toNat + n.toNat ≤ 4096) :
    exec (.drw x y n) s =
      .next ((s.drawSprite ((s.reg x).toNat % 64) ((s.reg y).toNat % 32) n.toNat).reply .continued) :=
  guardRange_in s _ h

/-- A `Step` that is not stopped earlier and whose fetch would touch an address above 0xFFF latches that fault (R123). -/
theorem stepEvent_fetch_out {s : State} (hf : s.fault = none) (hlt : s.pc.toNat < s.programEnd.toNat)
    (h : 0xFFF < s.pc.toNat + 1) :
    stepEvent s = .next (s.faulted (.memoryOutOfBounds (max s.pc.toNat 0x1000))) := by
  rcases stepEvent_cases s with ⟨f, hl, -⟩ | ⟨-, hle, -⟩ | ⟨-, -, -, hs⟩ | ⟨⟨-, -, hr⟩, -, -⟩ | ⟨i, ⟨⟨-, -, hr⟩, -⟩, -⟩
  · simp [hf] at hl
  · omega
  · exact hs
  · omega
  · omega

/-- Settles O38: each accessing form and the fetch is one guarded access, `DXYN` with `N = 0` one to no byte at all. -/
theorem rangeCheckBeforeAnyEffect : Obligations.RangeCheckBeforeAnyEffect := by
  intro x y n s
  refine ⟨exec_ldBVx_out x, exec_ldMemVx_out, exec_ldVxMem_out, exec_drw_out x y,
    ⟨_, exec_drw_in x y (.inl rfl), rfl, rfl⟩, fun hf hpc hend => ?_⟩
  have hs := stepEvent_fetch_out hf (by omega) (by omega)
  rwa [hpc] at hs

end Sys2Proof.Machine
end

section
/-! PROOFS of the family spec/30_encoding.md: the illegal words (R94, R101), and the fault a `Step` latches on one
(R126, R251). -/

namespace Sys2Proof

/-! ## What the decoder rejects (R94, R101) -/

/-- The five shapes of R101. -/
def IllegalShape (w : Word) : Prop :=
  (opField w = 0x5 ∧ nField w ≠ 0) ∨
  (opField w = 0x8 ∧ nField w ∈ [0x8, 0x9, 0xA, 0xB, 0xC, 0xD, 0xF]) ∨
  (opField w = 0x9 ∧ nField w ≠ 0) ∨
  (opField w = 0xE ∧ nnField w ∉ [0x9E, 0xA1]) ∨
  (opField w = 0xF ∧ nnField w ∉ [0x07, 0x0A, 0x15, 0x18, 0x1E, 0x29, 0x33, 0x55, 0x65])

/-- The answer `d` to `w` is the rejection that names `w` where `P` holds, and an instruction where it does not. -/
def RejectsWhen (w : Word) (P : Prop) (d : Decoded) : Prop :=
  (P ∧ d = .error (.illegalOpcode w)) ∨ (¬ P ∧ ∃ i, d = .ok i)

theorem rejectsWhen_ok {w : Word} {P : Prop} {i : Instr} (h : ¬ P) : RejectsWhen w P (.ok i) :=
  .inr ⟨h, i, rfl⟩

theorem rejectsWhen_error {w : Word} {P : Prop} (h : P) : RejectsWhen w P (.error (.illegalOpcode w)) :=
  .inl ⟨h, rfl⟩

/-- A group with one legal function value, as `5XY0` and `9XY0` are (R99). -/
theorem ite_rejectsWhen (w : Word) (P : Prop) [Decidable P] (i : Instr) :
    RejectsWhen w (¬ P) (if P then .ok i else .error (.illegalOpcode w)) := by
  by_cases h : P
  · rw [if_pos h]; exact rejectsWhen_ok (not_not_intro h)
  · rw [if_neg h]; exact rejectsWhen_error h

theorem decodeAlu_rejectsWhen (w : Word) :
    RejectsWhen w (nField w ∈ [0x8, 0x9, 0xA, 0xB, 0xC, 0xD, 0xF]) (decodeAlu w) := by
  unfold decodeAlu
  split
  -- The last arm: a nibble that is none of the nine functions is one of the other seven values.
  case h_10 =>
    apply rejectsWhen_error
    simp only [imp_false, List.mem_cons, List.not_mem_nil, or_false] at *
    bv_omega
  all_goals exact rejectsWhen_ok (by simp [*])

theorem decodeKey_rejectsWhen (w : Word) : RejectsWhen w (nnField w ∉ [0x9E, 0xA1]) (decodeKey w) := by
  unfold decodeKey
  split
  case h_3 => exact rejectsWhen_error (by simp_all)
  all_goals exact rejectsWhen_ok (by simp [*])

theorem decodeMisc_rejectsWhen (w : Word) :
    RejectsWhen w (nnField w ∉ [0x07, 0x0A, 0x15, 0x18, 0x1E, 0x29, 0x33, 0x55, 0x65]) (decodeMisc w) := by
  unfold decodeMisc
  split
  case h_10 => exact rejectsWhen_error (by simp_all)
  all_goals exact rejectsWhen_ok (by simp [*])

/-- The eleven `op` groups whose words are all legal (R95). -/
theorem decode_of_opField_notMem {w : Word} (h : opField w ∉ [0x5, 0x8, 0x9, 0xE, 0xF]) : ∃ i, decode w = .ok i := by
  simp only [List.mem_cons, List.not_mem_nil, or_false, not_or] at h
  unfold decode
  split
  case h_1 => split_ifs <;> exact ⟨_, rfl⟩
  -- The decoder's last arm, where `op` is none of 0x0 to 0xE: it would be 0xF, which `h` excludes.
  case h_16 =>
    simp only [imp_false] at *
    bv_omega
  all_goals simp_all

/-- The five `op` groups with illegal words are R101's shapes, one each. -/
theorem decode_rejectsWhen (w : Word) : RejectsWhen w (IllegalShape w) (decode w) := by
  by_cases h : opField w ∈ [0x5, 0x8, 0x9, 0xE, 0xF]
  · simp only [List.mem_cons, List.not_mem_nil, or_false] at h
    rcases h with h | h | h | h | h
    · simpa [decode, IllegalShape, h] using ite_rejectsWhen w (nField w = 0) (.seReg (xField w) (yField w))
    · simpa [decode, IllegalShape, h] using decodeAlu_rejectsWhen w
    · simpa [decode, IllegalShape, h] using ite_rejectsWhen w (nField w = 0) (.sneReg (xField w) (yField w))
    · simpa [decode, IllegalShape, h] using decodeKey_rejectsWhen w
    · simpa [decode, IllegalShape, h] using decodeMisc_rejectsWhen w
  · obtain ⟨i, hi⟩ := decode_of_opField_notMem h
    rw [hi]
    exact rejectsWhen_ok (by simp_all [IllegalShape])

/-- Every word decodes or is rejected by its own name (R94). -/
theorem decode_total (w : Word) : (∃ i, decode w = .ok i) ∨ decode w = .error (.illegalOpcode w) :=
  (decode_rejectsWhen w).symm.imp And.right And.right

/-- R101, in both directions. -/
theorem decode_eq_illegal_iff (w : Word) : decode w = .error (.illegalOpcode w) ↔ IllegalShape w := by
  rcases decode_rejectsWhen w with ⟨hw, hd⟩ | ⟨hw, i, hd⟩ <;> simp [hw, hd]

end Sys2Proof

namespace Sys2Proof.Machine

/-! ## The fault an illegal word raises (R126, R251) -/

/-- A `Step` that fetches a word that does not decode raises `IllegalOpcode` with that word, `pc` past it. -/
theorem stepEvent_illegal {s : State} {e : DecodeError} (hf : s.fetches) (hd : decode s.fetchWord = .error e) :
    stepEvent s = raise (.illegalOpcode s.fetchWord) s.advance := by
  obtain ⟨hnone, hlt, hr⟩ := hf
  rcases stepEvent_cases s with ⟨f, hl, -⟩ | ⟨-, hle, -⟩ | ⟨-, -, hout, -⟩ | ⟨-, -, hs⟩ | ⟨i, ⟨-, hi⟩, -⟩
  · simp [hnone] at hl
  · omega
  · omega
  · exact hs
  · simp [hd] at hi

/-- Settles O3: the decoder rejects R101's shapes and nothing else, by name, and a `Step` on such a word latches it. -/
theorem illegalWordsExhaustively : Obligations.IllegalWordsExhaustively :=
  ⟨decode_eq_illegal_iff, decode_total, fun _ hf hd => ⟨_, stepEvent_illegal hf hd, rfl⟩⟩

end Sys2Proof.Machine
end

section
/-! PROOFS of the family spec/40_step_cycle.md: how an instruction and a `Step` can end and what each leaves alone (R37, R120,
R133), then the latch (R121), the halt check (R122), the fetch (R123), what no `Step` touches (R129), and the key wait
(R134). -/

namespace Sys2Proof.Machine

/-! ## The frame through each operation

If `t` agrees with `s` outside the pieces `p`, so does `t` after an update of a piece that `p` names. -/

namespace SameBut

theorem refl (p : List Piece) (s : State) : SameBut p s s where
  memory _ _ := rfl
  pc _ := rfl
  programEnd := rfl
  regs _ _ _ := rfl
  index _ := rfl
  stack _ := rfl
  dt _ := rfl
  st _ := rfl
  pixels _ _ _ := rfl
  dirty _ := rfl
  fault := rfl
  keys := rfl
  random _ := ⟨rfl, rfl⟩
  schedule := rfl
  loadResult := rfl

variable {p : List Piece} {s t : State} (h : SameBut p s t)
include h

/-- The result port is no piece of state. -/
theorem reply (r : StepResult) : SameBut p s (t.reply r) := { h with }

/-- Any update of the register file. -/
theorem setRegs (v : Vector Byte 16) (hp : Piece.regs ∈ p := by simp [writes]) : SameBut p s { t with v := v } :=
  { h with regs := absurd hp }

theorem setReg (x : Reg) (b : Byte) (hp : Piece.regs ∈ p := by simp [writes]) : SameBut p s (t.setReg x b) :=
  h.setRegs _ hp

theorem loadRegs (base : Nat) (x : Reg) (hp : Piece.regs ∈ p := by simp [writes]) : SameBut p s (t.loadRegs base x) :=
  h.setRegs _ hp

theorem storeBytes (a : Nat) (bs : List Byte) (hp : Piece.memory ∈ p := by simp [writes]) :
    SameBut p s (t.storeBytes a bs) :=
  { h with memory := absurd hp }

theorem setPc (a : Word) (hp : Piece.pc ∈ p := by simp [writes]) : SameBut p s (t.setPc a) :=
  { h with pc := absurd hp }

theorem skipIf (taken : Bool) (hp : Piece.pc ∈ p := by simp [writes]) : SameBut p s (t.skipIf taken) := by
  cases taken
  · exact h
  · exact h.setPc _ hp

theorem setI (a : Word) (hp : Piece.index ∈ p := by simp [writes]) : SameBut p s (t.setI a) :=
  { h with index := absurd hp }

theorem push (a : Word) (hp : Piece.stack ∈ p := by simp [writes]) : SameBut p s (t.push a) :=
  { h with stack := absurd hp }

theorem setStack (l : List Word) (hp : Piece.stack ∈ p := by simp [writes]) : SameBut p s (t.setStack l) :=
  { h with stack := absurd hp }

theorem setDt (b : Byte) (hp : Piece.dt ∈ p := by simp [writes]) : SameBut p s (t.setDt b) :=
  { h with dt := absurd hp }

theorem setSt (b : Byte) (hp : Piece.st ∈ p := by simp [writes]) : SameBut p s (t.setSt b) :=
  { h with st := absurd hp }

theorem setScreen (fb : Screen) (hp : Piece.pixels ∈ p := by simp [writes])
    (hd : Piece.dirty ∈ p := by simp [writes]) : SameBut p s (t.setScreen fb) :=
  { h with pixels := absurd hp, dirty := absurd hd }

theorem rndTaken (hp : Piece.random ∈ p := by simp [writes]) : SameBut p s t.rndTaken :=
  { h with random := absurd hp }

end SameBut

/-! ## How an instruction can end (R133) -/

/-- The ends of the instruction `i` dispatched in `s`: a fault and nothing else (R256), the blocked key wait (R134), or its
completion, which writes what the form's row in R37's table names. -/
inductive ExecEnds (s : State) : Instr → State → Prop
  | faulted (i : Instr) (f : Fault) : ExecEnds s i (s.faulted f)
  | blocked (x : Reg) (hk : firstKey s.env.keys = none) : ExecEnds s (.ldVxK x) ((s.setPc (s.pc - 2)).reply .blocked)
  | completed {i : Instr} {u : State} (hu : SameBut (writes i) s u) : ExecEnds s i (u.reply .continued)

/-- A guarded access faults or completes. -/
theorem guardRange_ends (base n : Nat) {i : Instr} {s u : State} (hu : SameBut (writes i) s u) :
    ∃ t, guardRange base n s (.next (u.reply .continued)) = .next t ∧ ExecEnds s i t := by
  rcases guardRange_cases base n s (.next (u.reply .continued)) with ⟨-, hg⟩ | ⟨-, -, hg⟩
  · exact ⟨_, hg, .completed hu⟩
  · exact ⟨_, hg, .faulted i _⟩

theorem exec_ends (i : Instr) (s : State) : ∃ t, exec i s = .next t ∧ ExecEnds s i t := by
  have hs (p) := SameBut.refl p s
  cases i with
  | sys => exact ⟨_, rfl, .completed (hs _)⟩
  | cls => exact ⟨_, rfl, .completed ((hs _).setScreen _)⟩
  | jp | jpV0 => exact ⟨_, rfl, .completed ((hs _).setPc _)⟩
  | seByte | sneByte | seReg | sneReg | skp | sknp => exact ⟨_, rfl, .completed ((hs _).skipIf _)⟩
  | ldByte | addByte | ldReg | orReg | andReg | xorReg | ldVxDt => exact ⟨_, rfl, .completed ((hs _).setReg _ _)⟩
  | addReg | subReg | shr | subnReg | shl => exact ⟨_, rfl, .completed (((hs _).setReg _ _).setReg _ _)⟩
  | ldI | addIVx | ldFVx => exact ⟨_, rfl, .completed ((hs _).setI _)⟩
  | rnd => exact ⟨_, rfl, .completed ((hs _).rndTaken.setReg _ _)⟩
  | ldDtVx => exact ⟨_, rfl, .completed ((hs _).setDt _)⟩
  | ldStVx => exact ⟨_, rfl, .completed ((hs _).setSt _)⟩
  | drw => exact guardRange_ends _ _ (((hs _).setScreen _).setReg _ _)
  | ldBVx | ldMemVx => exact guardRange_ends _ _ ((hs _).storeBytes _ _)
  | ldVxMem => exact guardRange_ends _ _ ((hs _).loadRegs _ _)
  | call nnn =>
    rw [exec_call]
    split
    · exact ⟨_, rfl, .faulted _ _⟩
    · exact ⟨_, rfl, .completed (((hs _).push _).setPc _)⟩
  | ret =>
    rcases exec_ret_cases s with ⟨-, hr⟩ | ⟨l, a, -, hr⟩
    · exact ⟨_, hr, .faulted _ _⟩
    · exact ⟨_, hr, .completed (((hs _).setStack _).setPc _)⟩
  | ldVxK x =>
    cases hk : firstKey s.env.keys with
    | none => exact ⟨_, exec_ldVxK_blocked x hk, .blocked x hk⟩
    | some k => exact ⟨_, exec_ldVxK_key x hk, .completed ((hs _).setReg _ _)⟩

/-! ## How a `Step` can end (R120) -/

/-- The ends of a `Step` from `s`: the latched fault again (R121), `Halted` (R122), the fault of the fetch (R123), an illegal
word (R126), or one of the three ends of the instruction dispatched. -/
inductive StepEnds (s : State) : State → Prop
  | latched {f : Fault} (hf : s.fault = some f) : StepEnds s (s.answered (.fault f))
  | halted (hf : s.fault = none) (hle : s.programEnd.toNat ≤ s.pc.toNat) : StepEnds s (s.answered .halted)
  | fetchFaulted (hf : s.fault = none) (hlt : s.pc.toNat < s.programEnd.toNat) (hout : 0x1000 < s.pc.toNat + 2) :
    StepEnds s (s.faulted (.memoryOutOfBounds (max s.pc.toNat 0x1000)))
  | illegal {e : DecodeError} (hf : s.fetches) (hd : decode s.fetchWord = .error e) :
    StepEnds s (s.advance.faulted (.illegalOpcode s.fetchWord))
  | faulted {i : Instr} (hi : s.dispatches i) (f : Fault) : StepEnds s (s.advance.faulted f)
  | blocked {x : Reg} (hi : s.dispatches (.ldVxK x)) (hk : firstKey s.env.keys = none) :
    StepEnds s (s.answered .blocked)
  | completed {i : Instr} {u : State} (hi : s.dispatches i) (hu : SameBut (writes i) s.advance u) :
    StepEnds s (u.reply .continued)

/-- A blocked key wait takes the fetch's advance back (R134). -/
theorem advance_rewound (s : State) : (s.advance.setPc (s.advance.pc - 2)).reply .blocked = s.answered .blocked := by
  rw [State.advance_pc, BitVec.add_sub_cancel]
  rfl

theorem stepEvent_ends {s t : State} (h : stepEvent s = .next t) : StepEnds s t := by
  rcases stepEvent_cases s with ⟨f, hf, hs⟩ | ⟨hf, hle, hs⟩ | ⟨hf, hlt, hout, hs⟩ | ⟨hf, ⟨e, hd⟩, hs⟩ | ⟨i, hi, hs⟩ <;>
    rw [hs] at h
  · cases h; exact .latched hf
  · cases h; exact .halted hf hle
  · cases h; exact .fetchFaulted hf hlt hout
  · cases h; exact .illegal hf hd
  · obtain ⟨t', he, ht⟩ := exec_ends i s.advance
    obtain rfl : t' = t := Host.Outcome.next.inj (he.symm.trans h)
    cases ht with
    | faulted _ f => exact .faulted hi f
    | blocked x hk => rw [advance_rewound]; exact .blocked hi hk
    | completed hu => exact .completed hi hu

/-! ## What a `Step` leaves alone (R129) -/

/-- Apart from `pc` and the latch, a `Step` writes only what the row of the instruction it dispatches names. -/
theorem stepEvent_sameBut {s t : State} (h : stepEvent s = .next t) :
    ∃ p, SameBut p { s with pc := t.pc, fault := t.fault } t ∧ ∀ q ∈ p, ∃ i, s.dispatches i ∧ q ∈ writes i := by
  have hidle (u : State) (r : StepResult) : SameBut [] u (u.reply r) := (SameBut.refl [] u).reply r
  cases stepEvent_ends h with
  | latched | halted | blocked => exact ⟨[], hidle s _, by simp⟩
  | fetchFaulted => exact ⟨[], hidle (s.latch _) _, by simp⟩
  | illegal | faulted => exact ⟨[], hidle (s.advance.latch _) _, by simp⟩
  | completed hi hu => exact ⟨_, { hu.reply _ with pc := fun _ => rfl, fault := rfl }, fun q hq => ⟨_, hi, hq⟩⟩

/-- One piece of state over a `Step`: it is outside the frame, or the instruction dispatched names it. -/
theorem stepEvent_piece (q : Piece) {s t : State} (h : stepEvent s = .next t) :
    (∃ p, q ∉ p ∧ SameBut p { s with pc := t.pc, fault := t.fault } t) ∨
    ∃ i, s.dispatches i ∧ q ∈ writes i ∧ exec i s.advance = .next t := by
  obtain ⟨p, hp, hw⟩ := stepEvent_sameBut h
  by_cases hq : q ∈ p
  · obtain ⟨i, hi, hqi⟩ := hw q hq
    exact .inr ⟨i, hi, hqi, (stepEvent_dispatches hi).symm.trans h⟩
  · exact .inl ⟨p, hq, hp⟩

theorem dt_mem_writes {i : Instr} (h : Piece.dt ∈ writes i) : ∃ x, i = .ldDtVx x := by
  cases i with
  | ldDtVx x => exact ⟨x, rfl⟩
  | _ => simp [writes] at h

theorem st_mem_writes {i : Instr} (h : Piece.st ∈ writes i) : ∃ x, i = .ldStVx x := by
  cases i with
  | ldStVx x => exact ⟨x, rfl⟩
  | _ => simp [writes] at h

theorem random_mem_writes {i : Instr} (h : Piece.random ∈ writes i) : ∃ x nn, i = .rnd x nn := by
  cases i with
  | rnd x nn => exact ⟨x, nn, rfl⟩
  | _ => simp [writes] at h

/-- The two forms that write `dirty` set it (R33). -/
theorem exec_dirty {i : Instr} {s t : State} (hi : Piece.dirty ∈ writes i) (hs : s.dirty = true)
    (h : exec i s = .next t) : t.dirty = true := by
  cases i with
  | cls => rw [← Host.Outcome.next.inj h]; rfl
  | drw x y n =>
    rw [exec_drw] at h
    rcases guardRange_cases s.i.toNat n.toNat s _ with ⟨-, hg⟩ | ⟨-, -, hg⟩ <;> rw [hg] at h
    · rw [← Host.Outcome.next.inj h]; rfl
    · rwa [← Host.Outcome.next.inj h]
  | _ => simp [writes] at hi

/-- `DT` after a `Step` (R234, R237). -/
theorem stepEvent_dt {s t : State} (h : stepEvent s = .next t) :
    t.dt = s.dt ∨ ∃ x, s.dispatches (.ldDtVx x) ∧ t.dt = s.reg x := by
  rcases stepEvent_piece .dt h with ⟨p, hq, hp⟩ | ⟨i, hi, hq, he⟩
  · exact .inl (hp.dt hq)
  · obtain ⟨x, rfl⟩ := dt_mem_writes hq
    exact .inr ⟨x, hi, by rw [← Host.Outcome.next.inj he]; rfl⟩

/-- `ST` after a `Step` (R238). -/
theorem stepEvent_st {s t : State} (h : stepEvent s = .next t) :
    t.st = s.st ∨ ∃ x, s.dispatches (.ldStVx x) ∧ t.st = s.reg x := by
  rcases stepEvent_piece .st h with ⟨p, hq, hp⟩ | ⟨i, hi, hq, he⟩
  · exact .inl (hp.st hq)
  · obtain ⟨x, rfl⟩ := st_mem_writes hq
    exact .inr ⟨x, hi, by rw [← Host.Outcome.next.inj he]; rfl⟩

theorem stepEvent_dirty {s t : State} (h : stepEvent s = .next t) (hs : s.dirty = true) : t.dirty = true := by
  rcases stepEvent_piece .dirty h with ⟨p, hq, hp⟩ | ⟨i, -, hq, he⟩
  · exact (hp.dirty hq).trans hs
  · exact exec_dirty (s := s.advance) hq hs he

/-- `CXNN` takes one random byte (R178). -/
theorem stepEvent_rnd {s t : State} {x : Reg} {nn : Byte} (hi : s.dispatches (.rnd x nn)) (h : stepEvent s = .next t) :
    t.env.draws = s.env.draws + 1 ∧ t.env.rndIn = s.env.rndIn.tail := by
  rw [stepEvent_dispatches hi] at h
  rw [← Host.Outcome.next.inj h]
  exact ⟨rfl, rfl⟩

theorem stepEvent_random {s t : State} (hi : ¬ ∃ x nn, s.dispatches (.rnd x nn)) (h : stepEvent s = .next t) :
    t.env.draws = s.env.draws ∧ t.env.rndIn = s.env.rndIn := by
  rcases stepEvent_piece .random h with ⟨p, hq, hp⟩ | ⟨i, hd, hq, -⟩
  · exact (hp.random hq).symm
  · obtain ⟨x, nn, rfl⟩ := random_mem_writes hq
    exact absurd ⟨x, nn, hd⟩ hi

/-- Settles O14: the frame of a `Step`, and the value each of `FX15`, `FX18`, `00E0`, `DXYN` and `CXNN` gives what its row
names. -/
theorem stepNeverTouches : Obligations.StepNeverTouches := by
  intro s t h
  obtain ⟨p, hp, -⟩ := stepEvent_sameBut h
  exact ⟨stepEvent_dt h, stepEvent_st h, stepEvent_dirty h, hp.programEnd, hp.keys,
    fun ⟨_, _, hi⟩ => stepEvent_rnd hi h, fun hi => stepEvent_random hi h⟩

/-! ## The latch (R121) -/

theorem stepEvent_latched {s : State} {f : Fault} (hf : s.fault = some f) :
    stepEvent s = .next (s.answered (.fault f)) := by
  simp only [stepEvent, hf]
  rfl

/-- A ROM of more than 3584 bytes is refused (R292). -/
theorem load_of_gt (s : State) {rom : List Byte} (h : 3584 < rom.length) : s.load rom = s.replyLoad .programTooLarge :=
  if_pos h

/-- Settles O8: the latch answers before anything else, and of the events only an accepted load resets it. -/
theorem latchedFaultRepeats : Obligations.LatchedFaultRepeats := by
  intro s f hf
  refine ⟨stepEvent_latched hf, fun e t h => ?_⟩
  cases e with
  | step =>
    obtain rfl := Host.Outcome.next.inj ((stepEvent_latched hf).symm.trans h)
    exact .inl hf
  | tick | setKeys | clearDirty => cases h; exact .inl hf
  | load rom =>
    obtain rfl : s.load rom = t := Host.Outcome.next.inj h
    by_cases hlen : rom.length ≤ 3584
    · exact .inr ⟨rom, rfl, hlen, by rw [load_of_le s hlen]; rfl⟩
    · exact .inl (by rw [load_of_gt s (by omega)]; exact hf)

/-! ## The halt check (R122) -/

theorem stepEvent_halted {s : State} (hf : s.fault = none) (hle : s.programEnd.toNat ≤ s.pc.toNat) :
    stepEvent s = .next (s.answered .halted) := by
  simp only [stepEvent, hf, BitVec.le_def, if_pos hle]
  rfl

/-- Settles O9: a halted core halts again, since the check reads nothing the answer changes; of the ends of a `Step` only one
answers `Halted`, and it is reached only at or past `program_end`. -/
theorem haltsAtProgramEnd : Obligations.HaltsAtProgramEnd := by
  refine fun s hf => ⟨fun hle => ⟨stepEvent_halted hf hle, stepEvent_halted (s := s.answered .halted) hf hle⟩,
    fun hlt t h hres => ?_⟩
  cases stepEvent_ends h with
  | halted _ hle => omega
  | latched | fetchFaulted | illegal | faulted | blocked | completed => cases hres

/-! ## The fetch (R123) -/

/-- Settles O10: below `program_end`, itself at most 0x1000, both bytes at `pc` exist unless `pc` is 0xFFF. -/
theorem fetchOrItsOneFault : Obligations.FetchOrItsOneFault := by
  refine fun s hf hlt hend => ⟨fun hpc w hw i hd => ?_, fun hpc => ⟨by omega, ?_⟩⟩
  · have hword : w = s.fetchWord := BitVec.eq_of_toNat_eq (by rw [hw, toNat_fetchWord, Nat.mul_comm])
    exact stepEvent_dispatches ⟨⟨hf, hlt, by omega⟩, hword ▸ hd⟩
  · have hs := stepEvent_fetch_out hf hlt (by omega)
    rwa [hpc] at hs

/-! ## The key wait (R134) -/

/-- A tick lowers a timer by 1 and stops at 0 (R240). -/
theorem toNat_countDown (b : Byte) : (State.countDown b).toNat = b.toNat - 1 := by
  unfold State.countDown
  split
  next h => rw [h]; rfl
  next h => bv_omega

theorem stepEvent_blocked {s : State} {x : Reg} (hi : s.dispatches (.ldVxK x)) (hk : firstKey s.env.keys = none) :
    stepEvent s = .next (s.answered .blocked) := by
  rw [stepEvent_dispatches hi, exec_ldVxK_blocked (s := s.advance) x hk, advance_rewound]

theorem stepEvent_key {s : State} {x : Reg} {k : Nat} (hi : s.dispatches (.ldVxK x)) (hk : firstKey s.env.keys = some k) :
    stepEvent s = .next ((s.advance.setReg x (BitVec.ofNat 8 k)).reply .continued) := by
  rw [stepEvent_dispatches hi, exec_ldVxK_key (s := s.advance) x hk]

/-- Settles O16: of the ends of a `Step` only the blocked key wait answers `Blocked`; with a key down `FX0A` is one register
write. -/
theorem blockedOnlyByKeyWait : Obligations.BlockedOnlyByKeyWait := by
  refine ⟨fun s t h hres => ?_, fun s x hi => ⟨fun hup => ⟨stepEvent_blocked hi ((firstKey_eq_none _).mpr hup), ?_⟩,
    fun k hk hdown hleast => ?_⟩⟩
  · cases stepEvent_ends h with
    | blocked hi hk => exact ⟨⟨_, hi⟩, (firstKey_eq_none _).mp hk, rfl⟩
    | latched | halted | fetchFaulted | illegal | faulted | completed => cases hres
  · exact ⟨_, rfl, toNat_countDown s.dt, toNat_countDown s.st⟩
  · have hs := stepEvent_key hi ((firstKey_eq_some _ k).mpr ⟨hk, hdown, hleast⟩)
    refine ⟨_, hs, rfl, ?_, rfl⟩
    rw [State.reg_reply, State.reg_setReg_self, BitVec.toNat_ofNat]
    omega

end Sys2Proof.Machine
end

section
/-! PROOFS of the family spec/41_flow.md: the words of the flow forms (R96), then the jumps and the no-operation (R142, R143,
R146), the skips on registers (R147 to R151), the call (R144, R252) and the return (R140, R253). -/

namespace Sys2Proof

/-! ## The words of the flow forms (R94, R96) -/

/-- Words that differ in `NNN` differ: this keeps `0NNN` apart from the exact words `00E0` and `00EE` (R94). -/
theorem wordA_ne {nnn : BitVec 12} {w : Word} (h : nnn ≠ nnnField w) (op : BitVec 4) : wordA op nnn ≠ w :=
  fun hw => h (by rw [← hw, nnnField_wordA])

theorem decode_sys {nnn : BitVec 12} (hcls : nnn ≠ 0x0E0) (hret : nnn ≠ 0x0EE) :
    decode (wordA 0x0 nnn) = .ok (.sys nnn) := by
  have hw0 : wordA 0x0 nnn ≠ 0x00E0 := wordA_ne hcls _
  have hw1 : wordA 0x0 nnn ≠ 0x00EE := wordA_ne hret _
  simp only [decode, opField_wordA, nnnField_wordA, if_neg hw0, if_neg hw1]
  rfl

theorem decode_jp (nnn : BitVec 12) : decode (wordA 0x1 nnn) = .ok (.jp nnn) := by
  simp [decode]

theorem decode_call (nnn : BitVec 12) : decode (wordA 0x2 nnn) = .ok (.call nnn) := by
  simp [decode]

theorem decode_jpV0 (nnn : BitVec 12) : decode (wordA 0xB nnn) = .ok (.jpV0 nnn) := by
  simp [decode]

theorem decode_seByte (x : Reg) (nn : Byte) : decode (wordXI 0x3 x nn) = .ok (.seByte x nn) := by
  simp [decode]

theorem decode_sneByte (x : Reg) (nn : Byte) : decode (wordXI 0x4 x nn) = .ok (.sneByte x nn) := by
  simp [decode]

theorem decode_seReg (x y : Reg) : decode (wordXYN 0x5 x y 0) = .ok (.seReg x y) := by
  simp [decode]

theorem decode_sneReg (x y : Reg) : decode (wordXYN 0x9 x y 0) = .ok (.sneReg x y) := by
  simp [decode]

end Sys2Proof

namespace Sys2Proof.Machine

/-! ## Jumps and the no-operation (R142, R143, R146) -/

theorem toNat_addrOf (nnn : BitVec 12) : (addrOf nnn).toNat = nnn.toNat :=
  BitVec.toNat_setWidth_of_le (by decide)

/-- 0xFFF plus 0xFF does not reach 65536, so the sum of `BNNN` is exact (R146). -/
theorem toNat_offsetTarget (nnn : BitVec 12) (v0 : Byte) : (offsetTarget nnn v0).toNat = nnn.toNat + v0.toNat := by
  rw [offsetTarget, BitVec.toNat_add, toNat_addrOf, BitVec.toNat_setWidth_of_le (by decide)]
  omega

/-- A form that only sets `pc` completes and changes nothing else. -/
theorem setPc_completes {i : Instr} {s : State} {a : Word} {n : Nat}
    (h : exec i s = .next ((s.setPc a).reply .continued)) (ha : a.toNat = n) :
    ∃ t, exec i s = .next t ∧ Completed t ∧ t.pc.toNat = n ∧ SameBut [.pc] s t :=
  ⟨_, h, rfl, ha, ((SameBut.refl _ s).setPc a).reply _⟩

/-- Settles O45: the forms `1NNN` and `BNNN` are one `setPc` each, `0NNN` is nothing but its answer. -/
theorem jumpsAndNoOperation : Obligations.JumpsAndNoOperation := fun nnn s =>
  ⟨decode_sys, ⟨_, exec_sys nnn s, rfl, (SameBut.refl _ s).reply _⟩,
    decode_jp nnn, setPc_completes (exec_jp nnn s) (toNat_addrOf nnn),
    decode_jpV0 nnn, setPc_completes (exec_jpV0 nnn s) (toNat_offsetTarget nnn _)⟩

/-! ## Skips on registers (R147 to R151) -/

/-- A skip that tests `P` completes, moves `pc` on by 2 more where `P` holds, and changes nothing else (R151). -/
theorem skipIf_completes {i : Instr} {s : State} {taken : Bool} {P : Prop} [Decidable P]
    (h : exec i s = .next ((s.skipIf taken).reply .continued)) (ht : taken = true ↔ P) :
    ∃ t, exec i s = .next t ∧ Completed t ∧ t.pc = (if P then s.pc + 2 else s.pc) ∧ SameBut [.pc] s t :=
  ⟨_, h, rfl, (s.skipIf_pc taken).trans (if_congr ht rfl rfl), ((SameBut.refl _ s).skipIf taken).reply _⟩

/-- Settles O46: the four forms are `skipIf_completes` with their four tests. -/
theorem registerSkips : Obligations.RegisterSkips := fun x y nn s =>
  ⟨⟨decode_seByte x nn, skipIf_completes (exec_seByte x nn s) beq_iff_eq⟩,
    ⟨decode_sneByte x nn, skipIf_completes (exec_sneByte x nn s) bne_iff_ne⟩,
    ⟨decode_seReg x y, skipIf_completes (exec_seReg x y s) beq_iff_eq⟩,
    ⟨decode_sneReg x y, skipIf_completes (exec_sneReg x y s) bne_iff_ne⟩⟩

/-! ## Call and return (R140, R144, R252, R253) -/

/-- Taking a fault sets the latch and answers it, and changes nothing else (R256). -/
theorem raise_faulted (f : Fault) (s : State) : raise f s = .next (s.faulted f) := rfl

/-- `2NNN` with fewer than 16 frames (R144). -/
theorem exec_call_push (nnn : BitVec 12) {s : State} (h : s.sp < 16) :
    exec (.call nnn) s = .next (((s.push s.pc).setPc (addrOf nnn)).reply .continued) := by
  rw [exec_call, if_neg (by omega)]

/-- `2NNN` with 16 frames (R252). -/
theorem exec_call_full (nnn : BitVec 12) {s : State} (h : s.sp = 16) :
    exec (.call nnn) s = raise .stackOverflow s := by
  rw [exec_call, if_pos (by omega)]

/-- Settles O47: below 16 frames a push and a jump, at 16 the fault. -/
theorem callPushesOrOverflows : Obligations.CallPushesOrOverflows := by
  refine fun nnn s => ⟨decode_call nnn, fun hlt => ?_, fun hfull => ?_⟩
  · exact ⟨_, exec_call_push nnn hlt, rfl, rfl, s.sp_push s.pc, toNat_addrOf nnn,
      (((SameBut.refl _ s).push s.pc).setPc (addrOf nnn)).reply _⟩
  · rw [exec_call_full nnn hfull, raise_faulted]

/-- Settles O48: with a last entry it is popped into `pc`, with no entry the fault. -/
theorem returnPopsOrUnderflows : Obligations.ReturnPopsOrUnderflows := by
  refine fun s => ⟨by decide, fun l a hs => ?_, fun hempty => ?_⟩
  · exact ⟨_, exec_ret_pop hs, rfl, rfl, by simp [State.sp, hs], rfl,
      (((SameBut.refl _ s).setStack l).setPc a).reply _⟩
  · rw [exec_ret_empty (List.eq_nil_of_length_eq_zero hempty), raise_faulted]

end Sys2Proof.Machine
end

section
/-! PROOFS of the family spec/42_alu.md: the words of the forms that compute on registers (R96), then the forms that write one
register (R165 to R170) and the forms that also write VF (R172 to R176). -/

namespace Sys2Proof

/-! ## The words of the register forms (R94, R96, R98) -/

theorem decode_ldByte (x : Reg) (nn : Byte) : decode (wordXI 0x6 x nn) = .ok (.ldByte x nn) := by
  simp [decode]

theorem decode_addByte (x : Reg) (nn : Byte) : decode (wordXI 0x7 x nn) = .ok (.addByte x nn) := by
  simp [decode]

theorem decode_ldReg (x y : Reg) : decode (wordXYN 0x8 x y 0x0) = .ok (.ldReg x y) := by
  simp [decode, decodeAlu]

theorem decode_orReg (x y : Reg) : decode (wordXYN 0x8 x y 0x1) = .ok (.orReg x y) := by
  simp [decode, decodeAlu]

theorem decode_andReg (x y : Reg) : decode (wordXYN 0x8 x y 0x2) = .ok (.andReg x y) := by
  simp [decode, decodeAlu]

theorem decode_xorReg (x y : Reg) : decode (wordXYN 0x8 x y 0x3) = .ok (.xorReg x y) := by
  simp [decode, decodeAlu]

theorem decode_addReg (x y : Reg) : decode (wordXYN 0x8 x y 0x4) = .ok (.addReg x y) := by
  simp [decode, decodeAlu]

theorem decode_subReg (x y : Reg) : decode (wordXYN 0x8 x y 0x5) = .ok (.subReg x y) := by
  simp [decode, decodeAlu]

theorem decode_shr (x y : Reg) : decode (wordXYN 0x8 x y 0x6) = .ok (.shr x y) := by
  simp [decode, decodeAlu]

theorem decode_subnReg (x y : Reg) : decode (wordXYN 0x8 x y 0x7) = .ok (.subnReg x y) := by
  simp [decode, decodeAlu]

theorem decode_shl (x y : Reg) : decode (wordXYN 0x8 x y 0xE) = .ok (.shl x y) := by
  simp [decode, decodeAlu]

end Sys2Proof

namespace Sys2Proof.Machine

/-! ## The register frame through a register write -/

namespace SameRegsBut

theorem refl (l : List Reg) (s : State) : SameRegsBut l s s := fun _ _ => rfl

variable {l : List Reg} {s t : State} (h : SameRegsBut l s t)
include h

theorem setReg {x : Reg} (b : Byte) (hx : x ∈ l) : SameRegsBut l s (t.setReg x b) :=
  fun r hr => (t.reg_setReg_ne b (ne_of_mem_of_not_mem hx hr).symm).trans (h r hr)

theorem reply (r : StepResult) : SameRegsBut l s (t.reply r) := h

end SameRegsBut

/-! ## The forms that write one register (R165 to R170) -/

/-- A form that only writes `b` into `V[x]` completes, with whatever follows of the new `V[x]`, and changes nothing else. -/
theorem setReg_completes {i : Instr} {s : State} {x : Reg} {b : Byte} {Q : State → Prop}
    (h : exec i s = .next ((s.setReg x b).reply .continued)) (hQ : ∀ t, t.reg x = b → Q t) :
    ∃ t, exec i s = .next t ∧ Completed t ∧ Q t ∧ SameRegsBut [x] s t ∧ SameBut [.regs] s t :=
  ⟨_, h, rfl, hQ _ (s.reg_setReg_self x b), ((SameRegsBut.refl _ s).setReg b (by simp)).reply _,
    ((SameBut.refl _ s).setReg x b).reply _⟩

/-- Settles O27: one register write each; the addition of bytes is modulo 256. -/
theorem immediateLoadAndAdd : Obligations.ImmediateLoadAndAdd := fun x nn s =>
  ⟨⟨decode_ldByte x nn, setReg_completes (exec_ldByte x nn s) fun _ hx => hx⟩,
    ⟨decode_addByte x nn, setReg_completes (exec_addByte x nn s) fun _ hx => by rw [hx, BitVec.toNat_add]⟩⟩

/-- Settles O28: one register write each; the operations of R168 to R170 act bit by bit. -/
theorem copyAndLogic : Obligations.CopyAndLogic := fun x y s =>
  ⟨⟨decode_ldReg x y, setReg_completes (exec_ldReg x y s) fun _ hx => hx⟩,
    ⟨decode_orReg x y, setReg_completes (exec_orReg x y s) fun _ hx _ => by rw [hx, BitVec.getLsbD_or]⟩,
    ⟨decode_andReg x y, setReg_completes (exec_andReg x y s) fun _ hx _ => by rw [hx, BitVec.getLsbD_and]⟩,
    ⟨decode_xorReg x y, setReg_completes (exec_xorReg x y s) fun _ hx _ => by rw [hx, BitVec.getLsbD_xor]⟩⟩

/-! ## The flag values (R22, R161) -/

theorem flagByte_decide (P : Prop) [Decidable P] : flagByte (decide P) = if P then 1 else 0 := by
  simp [flagByte]

theorem carryFlag_eq (a b : Byte) : carryFlag a b = if a.toNat + b.toNat > 255 then 1 else 0 :=
  flagByte_decide _

theorem noBorrowFlag_eq (a b : Byte) : noBorrowFlag a b = if a.toNat ≥ b.toNat then 1 else 0 :=
  flagByte_decide _

theorem toNat_flagByte (b : Bool) : (flagByte b).toNat = b.toNat := by
  cases b <;> rfl

/-- The bit shifted out to the right is the remainder by 2 (R174). -/
theorem toNat_lowBitFlag (v : Byte) : (lowBitFlag v).toNat = v.toNat % 2 := by
  rw [lowBitFlag, toNat_flagByte, BitVec.getLsbD, Nat.toNat_testBit, pow_zero, Nat.div_one]

/-- The bit shifted out to the left is the quotient by 128 (R176). -/
theorem toNat_highBitFlag (v : Byte) : (highBitFlag v).toNat = v.toNat / 128 := by
  rw [highBitFlag, toNat_flagByte, BitVec.getLsbD, Nat.toNat_testBit]
  omega

/-! ## The results (R173 to R176) -/

theorem toNat_sub_byte (a b : Byte) : (a - b).toNat = (a.toNat + 256 - b.toNat) % 256 := by
  rw [BitVec.toNat_sub]
  omega

theorem toNat_shiftRight_one (v : Byte) : (v >>> 1).toNat = v.toNat / 2 := by
  rw [BitVec.toNat_ushiftRight, Nat.shiftRight_one]

theorem toNat_shiftLeft_one (v : Byte) : (v <<< 1).toNat = 2 * v.toNat % 256 := by
  rw [BitVec.toNat_shiftLeft, Nat.shiftLeft_eq, Nat.mul_comm]

/-! ## The forms that also write VF (R172 to R176) -/

/-- A form that writes its result and then its flag completes and changes nothing but `V[x]` and VF. The flag is written
last, so it stands in VF also where VF is the destination (R172). -/
theorem setReg_setVf_completes {i : Instr} {s : State} {x : Reg} {b f : Byte}
    (h : exec i s = .next (((s.setReg x b).setReg State.vf f).reply .continued)) :
    ∃ t, exec i s = .next t ∧ Completed t ∧ (x ≠ 15 → t.reg x = b) ∧ t.reg 15 = f ∧
      SameRegsBut [x, 15] s t ∧ SameBut [.regs] s t :=
  ⟨_, h, rfl, fun hx => ((s.setReg x b).reg_setReg_ne f hx).trans (s.reg_setReg_self x b),
    (s.setReg x b).reg_setReg_self 15 f,
    (((SameRegsBut.refl _ s).setReg b (by simp)).setReg f (by simp [State.vf])).reply _,
    (((SameBut.refl _ s).setReg x b).setReg State.vf f).reply _⟩

/-- A form that writes its flag and then its result completes and changes nothing but `V[x]` and VF. Where VF is not the
destination both stand, and `Q` is whatever follows from them (R173 to R176). -/
theorem setVf_setReg_completes {i : Instr} {s : State} {x : Reg} {b f : Byte} {Q : State → Prop}
    (h : exec i s = .next (((s.setReg State.vf f).setReg x b).reply .continued))
    (hQ : ∀ t, (x ≠ 15 → t.reg x = b) → (x ≠ 15 → t.reg 15 = f) → Q t) :
    ∃ t, exec i s = .next t ∧ Completed t ∧ SameRegsBut [x, 15] s t ∧ SameBut [.regs] s t ∧ Q t :=
  ⟨_, h, rfl, (((SameRegsBut.refl _ s).setReg f (by simp [State.vf])).setReg b (by simp)).reply _,
    (((SameBut.refl _ s).setReg State.vf f).setReg x b).reply _,
    hQ _ (fun _ => (s.setReg State.vf f).reg_setReg_self x b)
      fun hx => ((s.setReg State.vf f).reg_setReg_ne b hx.symm).trans (s.reg_setReg_self 15 f)⟩

/-- Settles O29: the sum, then the carry over it, both from the operands as they were before. -/
theorem addWithCarry : Obligations.AddWithCarry := by
  intro x y s
  obtain ⟨t, ht, hc, hx, hf, hr, hs⟩ := setReg_setVf_completes (exec_addReg x y s)
  exact ⟨decode_addReg x y, t, ht, hc, fun h15 => by rw [hx h15, BitVec.toNat_add],
    hf.trans (carryFlag_eq _ _), hr, hs⟩

/-- Settles O30: the two forms are one subtraction with the operands exchanged. -/
theorem subtractBothWays : Obligations.SubtractBothWays := fun x y s =>
  ⟨⟨decode_subReg x y, setVf_setReg_completes (exec_subReg x y s) fun _ hb hf hx _ =>
      ⟨by rw [hb hx, toNat_sub_byte], by rw [hf hx, noBorrowFlag_eq]⟩⟩,
    ⟨decode_subnReg x y, setVf_setReg_completes (exec_subnReg x y s) fun _ hb hf hx _ =>
      ⟨by rw [hb hx, toNat_sub_byte], by rw [hf hx, noBorrowFlag_eq]⟩⟩⟩

/-- Settles O31: neither form's meaning mentions `Y`; the flag and the result are computed from the old `V[X]`. -/
theorem shiftInPlace : Obligations.ShiftInPlace := fun x y s =>
  ⟨⟨decode_shr x y, setVf_setReg_completes (exec_shr x y s) fun _ hb hf hx =>
      ⟨by rw [hb hx, toNat_shiftRight_one], by rw [hf hx, toNat_lowBitFlag]⟩⟩,
    ⟨decode_shl x y, setVf_setReg_completes (exec_shl x y s) fun _ hb hf hx =>
      ⟨by rw [hb hx, toNat_shiftLeft_one], by rw [hf hx, toNat_highBitFlag]⟩⟩⟩

end Sys2Proof.Machine
end

section
/-! PROOFS of the family spec/43_index_memory.md: the words of its forms (R96), then the writers of `I` (R192, R194, R195), the
stores through `I` (R196, R197) and the load through `I` (R198). The faults out of range stand with the family
spec/20_memory.md. -/

namespace Sys2Proof

/-! ## The words of the forms (R94, R96, R100) -/

theorem decode_ldI (nnn : BitVec 12) : decode (wordA 0xA nnn) = .ok (.ldI nnn) := by
  simp [decode]

theorem decode_addIVx (x : Reg) : decode (wordXI 0xF x 0x1E) = .ok (.addIVx x) := by
  simp [decode, decodeMisc]

theorem decode_ldFVx (x : Reg) : decode (wordXI 0xF x 0x29) = .ok (.ldFVx x) := by
  simp [decode, decodeMisc]

theorem decode_ldBVx (x : Reg) : decode (wordXI 0xF x 0x33) = .ok (.ldBVx x) := by
  simp [decode, decodeMisc]

theorem decode_ldMemVx (x : Reg) : decode (wordXI 0xF x 0x55) = .ok (.ldMemVx x) := by
  simp [decode, decodeMisc]

theorem decode_ldVxMem (x : Reg) : decode (wordXI 0xF x 0x65) = .ok (.ldVxMem x) := by
  simp [decode, decodeMisc]

end Sys2Proof

namespace Sys2Proof.Machine

/-! ## The writers of `I` (R192, R194, R195) -/

theorem toNat_indexSum (i : Word) (v : Byte) : (indexSum i v).toNat = (i.toNat + v.toNat) % 65536 := by
  rw [indexSum, BitVec.toNat_add, BitVec.toNat_setWidth_of_le (by decide)]

/-- Five times 255 is below 65536, so the product is exact (R195). -/
theorem toNat_glyphAddr (v : Byte) : (glyphAddr v).toNat = 5 * v.toNat := by
  have hv : v.toNat < 256 := v.isLt
  rw [glyphAddr, Config.fontBase, Config.glyphBytes, BitVec.toNat_ofNat]
  omega

/-- A form that only sets `I` completes and changes nothing else. -/
theorem setI_completes {i : Instr} {s : State} {a : Word} {n : Nat}
    (h : exec i s = .next ((s.setI a).reply .continued)) (ha : a.toNat = n) :
    ∃ t, exec i s = .next t ∧ Completed t ∧ t.i.toNat = n ∧ SameBut [.index] s t :=
  ⟨_, h, rfl, ha, ((SameBut.refl _ s).setI a).reply _⟩

/-- Settles O34: the three forms are one `setI` each. -/
theorem indexRegisterWriters : Obligations.IndexRegisterWriters := fun x nnn s =>
  ⟨⟨decode_ldI nnn, setI_completes (exec_ldI nnn s) (toNat_addrOf nnn)⟩,
    ⟨decode_addIVx x, setI_completes (exec_addIVx x s) (toNat_indexSum _ _)⟩,
    ⟨decode_ldFVx x, setI_completes (exec_ldFVx x s) (toNat_glyphAddr _)⟩⟩

/-! ## The accesses in range (R64, R77) -/

theorem exec_ldBVx_in (x : Reg) {s : State} (h : s.i.toNat + 2 ≤ 0xFFF) :
    exec (.ldBVx x) s = .next ((s.storeBytes s.i.toNat (decimalDigits (s.reg x))).reply .continued) :=
  guardRange_in s _ (.inr (by omega))

theorem exec_ldMemVx_in {x : Reg} {s : State} (h : s.i.toNat + x.val ≤ 0xFFF) :
    exec (.ldMemVx x) s = .next ((s.storeBytes s.i.toNat (s.regsUpTo x)).reply .continued) :=
  guardRange_in s _ (.inr (by omega))

theorem exec_ldVxMem_in {x : Reg} {s : State} (h : s.i.toNat + x.val ≤ 0xFFF) :
    exec (.ldVxMem x) s = .next ((s.loadRegs s.i.toNat x).reply .continued) :=
  guardRange_in s _ (.inr (by omega))

/-! ## Stores of several bytes (R63) -/

/-- What a store of several bytes that all exist leaves at any address. -/
theorem byteAt_storeBytes {s : State} {a : Nat} {bs : List Byte} (hm : s.mem.wf) (ha : a + bs.length ≤ 4096) (b : Nat) :
    (s.storeBytes a bs).byteAt b = if a ≤ b ∧ b < a + bs.length then bs.getD (b - a) 0 else s.byteAt b :=
  Memory.read_writeBytes ha hm b

/-- A form that only stores `bs` from `a`, every byte of it in range, completes and changes nothing else. -/
theorem storeBytes_completes {i : Instr} {s : State} {a : Nat} {bs : List Byte}
    (h : exec i s = .next ((s.storeBytes a bs).reply .continued)) (hm : s.mem.wf) (ha : a + bs.length ≤ 4096) :
    ∃ t, exec i s = .next t ∧ Completed t ∧ (∀ k, k < bs.length → t.byteAt (a + k) = bs.getD k 0) ∧
      SameMemoryOutside a bs.length s t ∧ SameBut [.memory] s t := by
  refine ⟨_, h, rfl, fun k hk => ?_, fun b hb => ?_, ((SameBut.refl _ s).storeBytes a bs).reply _⟩
  · rw [State.byteAt_reply, byteAt_storeBytes hm ha, if_pos (by omega), Nat.add_sub_cancel_left]
  · rw [State.byteAt_reply, byteAt_storeBytes hm ha, if_neg hb]

/-! ## The decimal store (R196) -/

/-- The digits of a byte, hundreds first, as numbers: each is below 256, so none is cut. -/
theorem toNat_decimalDigits (v : Byte) :
    ((decimalDigits v).getD 0 0).toNat = v.toNat / 100 ∧ ((decimalDigits v).getD 1 0).toNat = v.toNat / 10 % 10 ∧
      ((decimalDigits v).getD 2 0).toNat = v.toNat % 10 := by
  have hv : v.toNat < 256 := v.isLt
  refine ⟨Nat.mod_eq_of_lt ?_, Nat.mod_eq_of_lt ?_, Nat.mod_eq_of_lt ?_⟩ <;> omega

/-- Settles O35: in range the store of the three digits, out of range `exec_ldBVx_out`. -/
theorem decimalStore : Obligations.DecimalStore := by
  refine fun x s hm => ⟨decode_ldBVx x, fun hin => ?_, exec_ldBVx_out x⟩
  have hlen : (decimalDigits (s.reg x)).length = 3 := rfl
  obtain ⟨t, ht, hc, hb, hout, hs⟩ := storeBytes_completes (exec_ldBVx_in x hin) hm (by omega)
  obtain ⟨h0, h1, h2⟩ := toNat_decimalDigits (s.reg x)
  rw [hlen] at hb hout
  rw [← hb 0 (by decide)] at h0
  rw [← hb 1 (by decide)] at h1
  rw [← hb 2 (by decide)] at h2
  exact ⟨t, ht, hc, h0, h1, h2, hout, hs⟩

/-! ## The register store (R197) -/

theorem length_regsUpTo (s : State) (x : Reg) : (s.regsUpTo x).length = x.val + 1 := by
  simp [State.regsUpTo]

theorem getD_regsUpTo (s : State) {x k : Reg} (h : k ≤ x) : (s.regsUpTo x).getD k.val 0 = s.reg k := by
  simp [State.regsUpTo, State.reg, List.getElem?_take_of_lt (Nat.lt_succ_of_le h)]

/-- Settles O36: in range the store of the registers up to `V[x]`, out of range `exec_ldMemVx_out`. -/
theorem registerStore : Obligations.RegisterStore := by
  refine fun x s hm => ⟨decode_ldMemVx x, fun hin => ?_, exec_ldMemVx_out⟩
  have hlen := length_regsUpTo s x
  obtain ⟨t, ht, hc, hb, hout, hs⟩ := storeBytes_completes (exec_ldMemVx_in hin) hm (by omega)
  rw [hlen] at hb hout
  exact ⟨t, ht, hc, fun k hk => (hb k.val (Nat.lt_succ_of_le hk)).trans (getD_regsUpTo s hk), hout, hs⟩

/-! ## The register load (R198) -/

/-- Settles O37: in range the load of the registers up to `V[x]`, out of range `exec_ldVxMem_out`. -/
theorem registerLoad : Obligations.RegisterLoad := by
  refine fun x s => ⟨decode_ldVxMem x, fun hin => ?_, exec_ldVxMem_out⟩
  refine ⟨_, exec_ldVxMem_in hin, rfl, fun k hk => ?_, fun k hk => ?_, ((SameBut.refl _ s).loadRegs _ x).reply _⟩
  · rw [State.reg_reply, State.reg_loadRegs, if_pos hk]
  · rw [State.reg_reply, State.reg_loadRegs, if_neg (Fin.not_le.mpr hk)]

end Sys2Proof.Machine
end

section
/-! PROOFS of the family spec/44_display.md: the screen cleared (R212), what a sprite does to each pixel (R211, R215), and how
it wraps at the right edge and at the bottom (R217). -/

namespace Sys2Proof

/-- The exact word `00E0` comes before the pattern `0NNN` (R94). -/
theorem decode_cls : decode 0x00E0 = .ok .cls := rfl

end Sys2Proof

namespace Sys2Proof.Machine

/-! ## The screen cleared (R212) -/

theorem pixel_blank (y x : Nat) : Screen.pixel (Vector.replicate 32 0) y x = false := by
  simp [Screen.pixel]

/-- Settles O41: one `setScreen` of the blank screen. -/
theorem clearScreen : Obligations.ClearScreen := fun s =>
  ⟨decode_cls, _, exec_cls s, rfl, fun y x => pixel_blank y.val x.val, rfl, ((SameBut.refl _ s).setScreen _).reply _⟩

/-! ## What a sprite does to each pixel (R211, R215) -/

/-- The drawing engine's lit pixels, of the bytes it reads at `I`, are those of the sprite at `I`. -/
theorem spriteLit_bytesAt {s : State} {x0 y0 n : Nat} {y : Fin 32} {x : Fin 64} :
    spriteLit x0 y0 (s.bytesAt s.i.toNat n) y.val x.val ↔ s.spriteLights x0 y0 n y x := by
  have hlen : (s.bytesAt s.i.toNat n).length = n := Memory.readBytes_length ..
  have hget : ∀ row, row < n → (s.bytesAt s.i.toNat n).getD row 0 = s.byteAt (s.i.toNat + row) :=
    Memory.getD_readBytes s.mem n s.i.toNat
  have hy : y.val % 32 = y.val := Nat.mod_eq_of_lt y.isLt
  have hx : x.val % 64 = x.val := Nat.mod_eq_of_lt x.isLt
  simp only [spriteLit, colLit, hlen, hy, hx]
  constructor
  · rintro ⟨row, hrow, hpy, col, hcol, hbit, hpx⟩
    exact ⟨row, hrow, col, hcol, hget row hrow ▸ hbit, hpy.symm, hpx.symm⟩
  · rintro ⟨row, hrow, col, hcol, hbit, hpy, hpx⟩
    exact ⟨row, hrow, hpy.symm, col, hcol, (hget row hrow).symm ▸ hbit, hpx.symm⟩

/-- A sprite of at most 32 rows flips the pixels under its 1 bits and no other. -/
theorem pixel_drawSprite (s : State) (x0 y0 : Nat) {n : Nat} (hn : n ≤ 32) (y : Fin 32) (x : Fin 64) :
    (s.drawSprite x0 y0 n).pixel y x =
      (s.pixel y x ^^ decide (spriteLit x0 y0 (s.bytesAt s.i.toNat n) y.val x.val)) :=
  drawRows_pixel x0 _ y.val x.val y0 _ ((Memory.readBytes_length ..).trans_le hn)

/-- On a clear screen `DXYN` in range lights the pixels under the sprite's 1 bits and no other. -/
theorem exec_drw_clear (x y : Reg) {n : BitVec 4} {s : State} (hin : n.toNat = 0 ∨ s.i.toNat + n.toNat ≤ 4096)
    (hclear : ∀ py px, s.pixel py px = false) :
    ∃ t, exec (.drw x y n) s = .next t ∧ ∀ py px, t.pixel py px = true ↔
      s.spriteLights ((s.reg x).toNat % 64) ((s.reg y).toNat % 32) n.toNat py px := by
  refine ⟨_, exec_drw_in x y hin, fun py px => ?_⟩
  have hn : n.toNat < 16 := n.isLt
  rw [State.pixel_reply, pixel_drawSprite s _ _ (by omega), hclear, Bool.false_xor, decide_eq_true_iff, spriteLit_bytesAt]

/-! ## The wrap at the edges (R217) -/

/-- A sprite of one row 0xFF covers its 8 columns on its row. -/
theorem spriteLights_fullRow {s : State} (h : s.byteAt s.i.toNat = 0xFF) (x0 y0 : Nat) (py : Fin 32) (px : Fin 64) :
    s.spriteLights x0 y0 1 py px ↔ y0 % 32 = py.val ∧ ∃ col, col < 8 ∧ (x0 + col) % 64 = px.val := by
  have hbit : ∀ col, col < 8 → (0xFF : Byte).getLsbD (7 - col) = true := by decide
  constructor
  · rintro ⟨row, hrow, col, hcol, -, hpy, hpx⟩
    obtain rfl : row = 0 := by omega
    exact ⟨hpy, col, hcol, hpx⟩
  · rintro ⟨hpy, col, hcol, hpx⟩
    exact ⟨0, Nat.one_pos, col, hcol, by rw [Nat.add_zero, h, hbit col hcol], hpy, hpx⟩

/-- A sprite of `n` rows 0x80 covers its `n` rows on its leftmost column. -/
theorem spriteLights_leftColumn {s : State} {n : Nat} (h : ∀ r, r < n → s.byteAt (s.i.toNat + r) = 0x80) (x0 y0 : Nat)
    (py : Fin 32) (px : Fin 64) :
    s.spriteLights x0 y0 n py px ↔ (∃ row, row < n ∧ (y0 + row) % 32 = py.val) ∧ x0 % 64 = px.val := by
  have hbit : ∀ col, col < 8 → (0x80 : Byte).getLsbD (7 - col) = true → col = 0 := by decide
  constructor
  · rintro ⟨row, hrow, col, hcol, hlit, hpy, hpx⟩
    rw [h row hrow] at hlit
    obtain rfl := hbit col hcol hlit
    exact ⟨⟨row, hrow, hpy⟩, hpx⟩
  · rintro ⟨⟨row, hrow, hpy⟩, hpx⟩
    exact ⟨row, hrow, 0, by decide, by rw [h row hrow]; rfl, hpy, hpx⟩

/-- Eight columns from column 60 wrap to column 0. -/
theorem columns_from_60 : ∀ px : Fin 64,
    (∃ col, col < 8 ∧ (60 + col) % 64 = px.val) ↔ px.val ∈ [60, 61, 62, 63, 0, 1, 2, 3] := by decide

/-- Four rows from row 30 wrap to row 0. -/
theorem rows_from_30 : ∀ py : Fin 32, (∃ row, row < 4 ∧ (30 + row) % 32 = py.val) ↔ py.val ∈ [30, 31, 0, 1] := by decide

/-- Settles O44: on the clear screen the lit pixels are the sprite's, and each sprite covers the wrapped columns or rows. -/
theorem drawWrapsAtTheEdges : Obligations.DrawWrapsAtTheEdges := by
  constructor
  · intro x y s _ _ hx hin hrow hclear
    obtain ⟨t, ht, hlit⟩ := exec_drw_clear x y (n := 1) (.inr (Nat.succ_le_succ hin)) hclear
    refine ⟨t, ht, fun py px => (hlit py px).trans ?_⟩
    rw [hx]
    exact (spriteLights_fullRow hrow 60 _ py px).trans
      (and_congr (by rw [Nat.mod_mod, eq_comm]) (columns_from_60 px))
  · intro x y s _ _ hy hin hrows hclear
    obtain ⟨t, ht, hlit⟩ := exec_drw_clear x y (n := 4) (.inr (Nat.succ_le_succ hin)) hclear
    refine ⟨t, ht, fun py px => (hlit py px).trans ?_⟩
    rw [hy]
    exact (spriteLights_leftColumn hrows _ 30 py px).trans
      (and_congr (rows_from_30 py) (by rw [Nat.mod_mod, eq_comm]))

end Sys2Proof.Machine
end

section
/-! PROOFS of the family spec/45_timers_keys.md: the words of its forms (R96), then the tick (R240), the skips on keys (R232,
R233), the timer forms (R234, R237, R238) and the key wait (R236). -/

namespace Sys2Proof

/-! ## The words of the forms (R94, R96, R100) -/

theorem decode_skp (x : Reg) : decode (wordXI 0xE x 0x9E) = .ok (.skp x) := by
  simp [decode, decodeKey]

theorem decode_sknp (x : Reg) : decode (wordXI 0xE x 0xA1) = .ok (.sknp x) := by
  simp [decode, decodeKey]

theorem decode_ldVxDt (x : Reg) : decode (wordXI 0xF x 0x07) = .ok (.ldVxDt x) := by
  simp [decode, decodeMisc]

theorem decode_ldVxK (x : Reg) : decode (wordXI 0xF x 0x0A) = .ok (.ldVxK x) := by
  simp [decode, decodeMisc]

theorem decode_ldDtVx (x : Reg) : decode (wordXI 0xF x 0x15) = .ok (.ldDtVx x) := by
  simp [decode, decodeMisc]

theorem decode_ldStVx (x : Reg) : decode (wordXI 0xF x 0x18) = .ok (.ldStVx x) := by
  simp [decode, decodeMisc]

end Sys2Proof

namespace Sys2Proof.Machine

/-! ## The tick (R46, R240) -/

theorem soundOn_iff (s : State) : s.soundOn = true ↔ s.st ≠ 0 := bne_iff_ne

/-- A timer that one tick counts down is lowered by `n` after `n` ticks, stopping at 0 (R240). -/
theorem toNat_iterate_tick {timer : State → Byte} (h : ∀ s, timer s.tick = State.countDown (timer s)) (n : Nat)
    (s : State) : (timer (State.tick^[n] s)).toNat = (timer s).toNat - n := by
  induction n with
  | zero => rfl
  | succ n ih => rw [Function.iterate_succ_apply', h, toNat_countDown, ih, Nat.sub_sub]

/-- The tick that takes `ST` from 1 to 0 stops the sound (R46, R240). -/
theorem tick_stops_sound {s : State} (h : s.st = 1) : s.soundOn = true ∧ s.tick.soundOn = false := by
  simp [State.soundOn, h, State.countDown]

/-- Settles O25: a tick is `countDown` on each timer, and each timer is counted down by itself. -/
theorem tickCountsDown : Obligations.TickCountsDown :=
  ⟨fun s => ⟨s.tick, rfl, toNat_countDown s.dt, toNat_countDown s.st, rfl, tick_stops_sound⟩,
    fun n s => ⟨toNat_iterate_tick State.tick_dt n s, toNat_iterate_tick State.tick_st n s⟩⟩

/-! ## Skips on keys (R232, R233) -/

theorem keyDown_iff (keys : BitVec 16) (v : Byte) : keyDown keys v = true ↔ keys.getLsbD (v.toNat % 16) = true := .rfl

theorem not_keyDown_iff (keys : BitVec 16) (v : Byte) :
    (!keyDown keys v) = true ↔ keys.getLsbD (v.toNat % 16) = false :=
  .of_eq (Bool.not_eq_true' _)

/-- Settles O51: the two forms are `skipIf_completes` with the key's level as the test, up or down. -/
theorem keySkips : Obligations.KeySkips := fun x s =>
  ⟨⟨decode_skp x, skipIf_completes (exec_skp x s) (keyDown_iff _ _)⟩,
    ⟨decode_sknp x, skipIf_completes (exec_sknp x s) (not_keyDown_iff _ _)⟩⟩

/-! ## The timer forms (R234, R237, R238) -/

/-- Settles O52: one write each; `sound_on` is read off the new `ST`. -/
theorem timerAccess : Obligations.TimerAccess := fun x s =>
  ⟨⟨decode_ldVxDt x, setReg_completes (exec_ldVxDt x s) fun _ hx => hx⟩,
    ⟨decode_ldDtVx x, _, exec_ldDtVx x s, rfl, rfl, ((SameBut.refl _ s).setDt _).reply _⟩,
    ⟨decode_ldStVx x, _, exec_ldStVx x s, rfl, rfl, soundOn_iff _, ((SameBut.refl _ s).setSt _).reply _⟩⟩

/-! ## The key wait (R236) -/

/-- Settles O53: `firstKey` is `none` exactly with all keys up, which rewinds, and otherwise the least key down, which is below
256 and so fits the one register written. -/
theorem keyWait : Obligations.KeyWait := by
  refine fun x s => ⟨decode_ldVxK x, fun hup => exec_ldVxK_blocked x ((firstKey_eq_none _).mpr hup),
    fun k hk hdown hleast => ?_⟩
  have hkey : firstKey s.env.keys = some k := (firstKey_eq_some _ k).mpr ⟨hk, hdown, hleast⟩
  exact setReg_completes (exec_ldVxK_key x hkey) fun t hx => by rw [hx, BitVec.toNat_ofNat]; omega

end Sys2Proof.Machine
end

section
/-! PROOFS of the family spec/60_exceptions.md: the fault of an illegal word (R251). -/

namespace Sys2Proof.Machine

/-- Settles O11: a word that no instruction decodes from is rejected by name (R94), and the fault is raised on the state whose
`pc` alone has advanced. -/
theorem illegalWordFaults : Obligations.IllegalWordFaults := by
  intro s hf hno
  have hd : decode s.fetchWord = .error (.illegalOpcode s.fetchWord) :=
    (decode_total s.fetchWord).resolve_left fun ⟨i, hi⟩ => hno i hi
  calc stepEvent s
    _ = raise (.illegalOpcode s.fetchWord) s.advance := stepEvent_illegal hf hd
    _ = .next (s.advance.faulted (.illegalOpcode s.fetchWord)) := raise_faulted _ _

end Sys2Proof.Machine
end

section
/-! PROOFS of the family spec/70_reset_and_hazards.md: which ROMs load (R292). -/

namespace Sys2Proof.Machine

/-- `program_end` after a successful load is one past the ROM's last byte, at most 0x1000, so 16 bits hold it (R291). -/
theorem toNat_programEnd_load (s : State) {rom : List Byte} (h : rom.length ≤ 3584) :
    (s.load rom).programEnd.toNat = 0x200 + rom.length := by
  rw [load_of_le s h]
  exact (BitVec.toNat_ofNat _ _).trans (Nat.mod_eq_of_lt (by omega))

/-- Settles O24: on each side of the bound of 3584 bytes, what `Load` then is; neither branch reads the status of the core. -/
theorem loadRefusesOnlyTooLarge : Obligations.LoadRefusesOnlyTooLarge := by
  refine fun rom s => ⟨fun hgt => ?_, fun hle => ⟨s.load rom, rfl, ?_, toNat_programEnd_load s hle⟩⟩
  · exact congrArg Host.Outcome.next (load_of_gt s hgt)
  · rw [load_of_le s hle]

end Sys2Proof.Machine
end

section
/-! PROOFS of the encoding round trip (R94, R96, R97, R103): the words that stand in no earlier section, then `decode` after
`encode`, and `encode` after `decode`. -/

namespace Sys2Proof

/-! ## The words of the remaining forms (R94, R96) -/

theorem decode_ret : decode 0x00EE = .ok .ret := rfl

theorem decode_rnd (x : Reg) (nn : Byte) : decode (wordXI 0xC x nn) = .ok (.rnd x nn) := by
  simp [decode]

theorem decode_drw (x y : Reg) (n : BitVec 4) : decode (wordXYN 0xD x y n) = .ok (.drw x y n) := by
  simp [decode]

/-! ## `decode` after `encode` -/

theorem wf_sys_iff (nnn : BitVec 12) : (Instr.sys nnn).wf = true ↔ nnn ≠ 0x0E0 ∧ nnn ≠ 0x0EE := by
  simp [Instr.wf]

/-- The one side condition is that of `0NNN`, whose word must be neither `00E0` nor `00EE` (R97). -/
theorem decode_encode {i : Instr} (h : i.wf = true) : decode (encode i) = .ok i := by
  cases i with
  | sys nnn =>
    obtain ⟨hcls, hret⟩ := (wf_sys_iff nnn).mp h
    exact decode_sys hcls hret
  | cls => exact decode_cls
  | ret => exact decode_ret
  | jp nnn => exact decode_jp nnn
  | call nnn => exact decode_call nnn
  | seByte x nn => exact decode_seByte x nn
  | sneByte x nn => exact decode_sneByte x nn
  | seReg x y => exact decode_seReg x y
  | ldByte x nn => exact decode_ldByte x nn
  | addByte x nn => exact decode_addByte x nn
  | ldReg x y => exact decode_ldReg x y
  | orReg x y => exact decode_orReg x y
  | andReg x y => exact decode_andReg x y
  | xorReg x y => exact decode_xorReg x y
  | addReg x y => exact decode_addReg x y
  | subReg x y => exact decode_subReg x y
  | shr x y => exact decode_shr x y
  | subnReg x y => exact decode_subnReg x y
  | shl x y => exact decode_shl x y
  | sneReg x y => exact decode_sneReg x y
  | ldI nnn => exact decode_ldI nnn
  | jpV0 nnn => exact decode_jpV0 nnn
  | rnd x nn => exact decode_rnd x nn
  | drw x y n => exact decode_drw x y n
  | skp x => exact decode_skp x
  | sknp x => exact decode_sknp x
  | ldVxDt x => exact decode_ldVxDt x
  | ldVxK x => exact decode_ldVxK x
  | ldDtVx x => exact decode_ldDtVx x
  | ldStVx x => exact decode_ldStVx x
  | addIVx x => exact decode_addIVx x
  | ldFVx x => exact decode_ldFVx x
  | ldBVx x => exact decode_ldBVx x
  | ldMemVx x => exact decode_ldMemVx x
  | ldVxMem x => exact decode_ldVxMem x

/-- Settles O1: the word of each form decodes to it. -/
theorem decodeOfEncode : Obligations.DecodeOfEncode :=
  fun _ => decode_encode

/-! ## `encode` after `decode` -/

/-- `w` is the word of the well-formed instruction `i`. -/
def IsWordOf (i : Instr) (w : Word) : Prop := i.wf = true ∧ encode i = w

/-- A form of format `A` whose word has `op` in front (R91). -/
theorem isWordOf_wordA {w : Word} {op : BitVec 4} {i : Instr} (hop : opField w = op)
    (he : encode i = wordA op (nnnField w)) (hwf : i.wf = true := by rfl) : IsWordOf i w :=
  ⟨hwf, by rw [he, ← hop, wordA_fields]⟩

/-- A form of format `XI` or `XF` whose word has `op` in front and `nn` as its low byte (R91). -/
theorem isWordOf_wordXI {w : Word} {op : BitVec 4} {nn : Byte} {i : Instr} (hop : opField w = op) (hnn : nnField w = nn)
    (he : encode i = wordXI op (xField w) nn) (hwf : i.wf = true := by rfl) : IsWordOf i w :=
  ⟨hwf, by rw [he, ← hop, ← hnn, wordXI_fields]⟩

/-- A form of format `XY` or `XYN` whose word has `op` in front and `n` as its low nibble (R91). -/
theorem isWordOf_wordXYN {w : Word} {op n : BitVec 4} {i : Instr} (hop : opField w = op) (hn : nField w = n)
    (he : encode i = wordXYN op (xField w) (yField w) n) (hwf : i.wf = true := by rfl) : IsWordOf i w :=
  ⟨hwf, by rw [he, ← hop, ← hn, wordXYN_fields]⟩

/-- `0NNN` is what is left of the `op = 0` group after the two exact words, so it is well formed (R94, R97). -/
theorem isWordOf_sys {w : Word} (hop : opField w = 0x0) (hcls : w ≠ 0x00E0) (hret : w ≠ 0x00EE) :
    IsWordOf (.sys (nnnField w)) w := by
  have hw : wordA 0x0 (nnnField w) = w := by rw [← hop, wordA_fields]
  have h0 : nnnField w ≠ 0x0E0 := fun h => hcls (by rw [← hw, h]; rfl)
  have h1 : nnnField w ≠ 0x0EE := fun h => hret (by rw [← hw, h]; rfl)
  exact ⟨(wf_sys_iff _).mpr ⟨h0, h1⟩, hw⟩

theorem isWordOf_of_decodeAlu {w : Word} {i : Instr} (hop : opField w = 0x8) (h : decodeAlu w = .ok i) :
    IsWordOf i w := by
  unfold decodeAlu at h
  split at h <;> cases h
  all_goals exact isWordOf_wordXYN hop ‹_› rfl

theorem isWordOf_of_decodeKey {w : Word} {i : Instr} (hop : opField w = 0xE) (h : decodeKey w = .ok i) :
    IsWordOf i w := by
  unfold decodeKey at h
  split at h <;> cases h
  all_goals exact isWordOf_wordXI hop ‹_› rfl

theorem isWordOf_of_decodeMisc {w : Word} {i : Instr} (hop : opField w = 0xF) (h : decodeMisc w = .ok i) :
    IsWordOf i w := by
  unfold decodeMisc at h
  split at h <;> cases h
  all_goals exact isWordOf_wordXI hop ‹_› rfl

/-- `op` is the first field of every format, so the decoder's split on it is also a split of the words to rebuild. -/
theorem isWordOf_of_decode {w : Word} {i : Instr} (h : decode w = .ok i) : IsWordOf i w := by
  unfold decode at h
  split at h
  case h_1 hop =>
    split_ifs at h with hcls hret <;> cases h
    · exact ⟨rfl, hcls.symm⟩
    · exact ⟨rfl, hret.symm⟩
    · exact isWordOf_sys hop hcls hret
  case h_6 hop | h_10 hop =>
    split_ifs at h with hn
    cases h
    exact isWordOf_wordXYN hop hn rfl
  case h_9 hop => exact isWordOf_of_decodeAlu hop h
  case h_15 hop => exact isWordOf_of_decodeKey hop h
  -- The decoder's last arm: `op` is none of 0x0 to 0xE.
  case h_16 =>
    refine isWordOf_of_decodeMisc ?_ h
    simp only [imp_false] at *
    bv_omega
  case h_2 hop | h_3 hop | h_11 hop | h_12 hop =>
    cases h
    exact isWordOf_wordA hop rfl
  case h_14 hop =>
    cases h
    exact isWordOf_wordXYN hop rfl rfl
  case h_4 hop | h_5 hop | h_7 hop | h_8 hop | h_13 hop =>
    cases h
    exact isWordOf_wordXI hop rfl rfl

/-- Settles O2: each arm of the decoder reads the fields that its form's word is built from. -/
theorem encodeOfDecode : Obligations.EncodeOfDecode :=
  fun _ _ => isWordOf_of_decode

/-- Settles O4: the decoder evaluated on the eleven words. -/
theorem writtenWordsDecode : Obligations.WrittenWordsDecode := by
  unfold Obligations.WrittenWordsDecode
  decide

end Sys2Proof
end

section
/-! PROOFS about every instruction form at once: that each answers a next state (R256), what each leaves alone and which
faults it can take (R37, R250), where each leaves `pc` (R128), and that a fault is precise (R257). -/

namespace Sys2Proof.Machine

/-! ## Nothing stops (R256) -/

theorem stepEvent_total (s : State) : ∃ t, stepEvent s = .next t := by
  rcases stepEvent_cases s with ⟨f, -, hs⟩ | ⟨-, -, hs⟩ | ⟨-, -, -, hs⟩ | ⟨-, -, hs⟩ | ⟨i, -, hs⟩
  · exact ⟨_, hs⟩
  · exact ⟨_, hs⟩
  · exact ⟨_, hs⟩
  · exact ⟨_, hs⟩
  · obtain ⟨t, ht, -⟩ := exec_ends i s.advance
    exact ⟨t, hs.trans ht⟩

theorem runEvent_total (e : Event) (s : State) : ∃ t, runEvent e s = .next t := by
  cases e with
  | step => exact stepEvent_total s
  | tick | setKeys | clearDirty | load => exact ⟨_, rfl⟩

theorem step_total (s : State) : ∃ t, step s = .next t := by
  rw [step_eq]
  cases hl : s.env.schedule with
  | nil => rw [nextEvent_nil hl]; exact stepEvent_total s
  | cons e l => rw [nextEvent_cons hl]; exact runEvent_total e _

/-- Settles O12: every instruction ends in one of the ways of `ExecEnds`, and each event in a next state. -/
theorem nothingStops : Obligations.NothingStops :=
  ⟨fun i s => (exec_ends i s).imp fun _ => And.left, step_total⟩

/-! ## The frame of every form (R37) -/

theorem exec_sameBut {i : Instr} {s t : State} (h : exec i s = .next t) :
    (∃ f, t = s.faulted f) ∨ SameBut (writes i) s t := by
  obtain ⟨u, hu, hends⟩ := exec_ends i s
  obtain rfl : u = t := Host.Outcome.next.inj (hu.symm.trans h)
  cases hends with
  | faulted _ f => exact .inl ⟨f, rfl⟩
  | blocked x => exact .inr (((SameBut.refl _ s).setPc _).reply _)
  | completed hs => exact .inr (hs.reply _)

/-- Memory after `t` is that of `s` with `n` bytes stored from `I`, all of them in range. -/
def StoresAtI (n : Nat) (s t : State) : Prop :=
  ∃ bs : List Byte, bs.length = n ∧ (n = 0 ∨ s.i.toNat + n ≤ 4096) ∧ t.mem = s.mem.writeBytes s.i.toNat bs

namespace StoresAtI

/-- Storing no byte is leaving memory alone. -/
theorem zero {s t : State} (h : t.mem = s.mem := by rfl) : StoresAtI 0 s t := ⟨[], rfl, .inl rfl, h⟩

variable {n : Nat} {s t : State} (h : StoresAtI n s t) (hm : s.mem.wf)
include h hm

theorem wf : t.mem.wf := by
  obtain ⟨bs, rfl, h0 | hr, ht⟩ := h
  · rw [ht, List.eq_nil_of_length_eq_zero h0]; exact hm
  · rw [ht]; exact Memory.writeBytes_wf hr hm

theorem sameMemoryOutside : SameMemoryOutside s.i.toNat n s t := by
  obtain ⟨bs, rfl, h0 | hr, ht⟩ := h
  · intro a _
    rw [State.byteAt, ht, List.eq_nil_of_length_eq_zero h0]; rfl
  · intro a ha
    rw [State.byteAt, ht, Memory.read_writeBytes hr hm, if_neg ha]; rfl

end StoresAtI

/-- An address in 16 bits, or the first one past memory, is one the core can name in a fault (R254). -/
theorem legal_memoryOutOfBounds (a : Word) : (Fault.memoryOutOfBounds (max a.toNat 0x1000)).legal := by
  have ha : a.toNat < 65536 := a.isLt
  exact ⟨le_max_right _ _, by omega⟩

/-- A guarded access goes on with its range in memory, or takes the fault. -/
theorem guardRange_next {base n : Nat} {s u t : State} (h : guardRange base n s (.next u) = .next t) :
    ((n = 0 ∨ base + n ≤ 4096) ∧ t = u) ∨ t = s.faulted (.memoryOutOfBounds (max base 0x1000)) := by
  rcases guardRange_cases base n s (.next u) with ⟨hr, hg⟩ | ⟨-, -, hg⟩ <;> rw [hg] at h
  · exact .inl ⟨hr, (Host.Outcome.next.inj h).symm⟩
  · exact .inr (Host.Outcome.next.inj h).symm

/-- An instruction takes a fault the core can raise and does nothing else, or it leaves the latch alone and stores in memory
the bytes its row in R37's table names. -/
theorem exec_fault_or_stores {i : Instr} {s t : State} (h : exec i s = .next t) :
    (∃ f, f.legal ∧ t = s.faulted f) ∨ (t.fault = s.fault ∧ StoresAtI (writtenBytes i) s t) := by
  have hout := legal_memoryOutOfBounds s.i
  cases i with
  | ldBVx x =>
    rcases guardRange_next h with ⟨hr, rfl⟩ | rfl
    · exact .inr ⟨rfl, _, rfl, hr, rfl⟩
    · exact .inl ⟨_, hout, rfl⟩
  | ldMemVx x =>
    rcases guardRange_next h with ⟨hr, rfl⟩ | rfl
    · exact .inr ⟨rfl, _, length_regsUpTo s x, hr, rfl⟩
    · exact .inl ⟨_, hout, rfl⟩
  | drw | ldVxMem =>
    rcases guardRange_next h with ⟨-, rfl⟩ | rfl
    · exact .inr ⟨by simp, .zero (by simp)⟩
    · exact .inl ⟨_, hout, rfl⟩
  | call nnn =>
    rw [exec_call] at h
    split at h <;> cases h
    · exact .inl ⟨.stackOverflow, trivial, rfl⟩
    · exact .inr ⟨rfl, .zero⟩
  | ret =>
    rcases exec_ret_cases s with ⟨-, hr⟩ | ⟨l, a, -, hr⟩ <;> rw [hr] at h <;> cases h
    · exact .inl ⟨.stackUnderflow, trivial, rfl⟩
    · exact .inr ⟨rfl, .zero⟩
  | ldVxK x =>
    cases hk : firstKey s.env.keys with
    | none => rw [exec_ldVxK_blocked x hk] at h; cases h; exact .inr ⟨rfl, .zero⟩
    | some k => rw [exec_ldVxK_key x hk] at h; cases h; exact .inr ⟨rfl, .zero⟩
  | seByte | sneByte | seReg | sneReg | skp | sknp =>
    cases h
    exact .inr ⟨State.skipIf_fault .., .zero (State.skipIf_mem ..)⟩
  | _ => cases h; exact .inr ⟨rfl, .zero⟩

/-- The registers above `V[x]` are not loaded (R198). -/
theorem sameRegsBut_loadRegs (s : State) (base : Nat) (x : Reg) :
    SameRegsBut (writtenRegs (.ldVxMem x)) s (s.loadRegs base x) := by
  intro r hr
  rw [State.reg_loadRegs, if_neg (by simpa [writtenRegs] using hr)]

/-- Every form leaves the general registers alone that its row in R37's table does not name. -/
theorem exec_sameRegsBut {i : Instr} {s t : State} (h : exec i s = .next t) : SameRegsBut (writtenRegs i) s t := by
  have hs (l) := SameRegsBut.refl l s
  cases i with
  | ldByte | addByte | ldReg | orReg | andReg | xorReg | rnd | ldVxDt =>
    cases h
    exact (hs _).setReg _ (by simp [writtenRegs])
  | addReg | subReg | shr | subnReg | shl =>
    cases h
    exact ((hs _).setReg _ (by simp [writtenRegs, State.vf])).setReg _ (by simp [writtenRegs, State.vf])
  | drw x y n =>
    rcases guardRange_next h with ⟨-, rfl⟩ | rfl
    · exact (hs _).setReg (t := s.setScreen _) _ (by simp [writtenRegs, State.vf])
    · exact hs _
  | ldVxK x =>
    cases hk : firstKey s.env.keys with
    | none => rw [exec_ldVxK_blocked x hk] at h; cases h; exact hs _
    | some k => rw [exec_ldVxK_key x hk] at h; cases h; exact (hs _).setReg _ (by simp [writtenRegs])
  | ldVxMem x =>
    rcases guardRange_next h with ⟨-, rfl⟩ | rfl
    · exact (sameRegsBut_loadRegs s _ x).reply _
    · exact hs _
  | _ =>
    rcases exec_sameBut h with ⟨f, rfl⟩ | hframe
    · exact hs _
    · exact hframe.regs (by simp [writes])

/-- Settles O17: the pieces by `exec_sameBut`, the registers and the bytes among them one by one. -/
theorem writesOnlyWhatTheTableSays : Obligations.WritesOnlyWhatTheTableSays := by
  intro i s t hm h
  rcases exec_sameBut h with hf | hframe
  · exact .inl hf
  · rcases exec_fault_or_stores h with ⟨f, -, rfl⟩ | ⟨-, hst⟩
    · exact .inl ⟨f, rfl⟩
    · exact .inr ⟨hframe, exec_sameRegsBut h, hst.sameMemoryOutside hm⟩

/-! ## `pc` after a `Step` (R128) -/

/-- Where `i`, dispatched in `s` and completed in `t`, leaves `pc`. -/
def PcAfter (i : Instr) (s t : State) : Prop :=
  match i with
  | .jp nnn | .call nnn => t.pc.toNat = nnn.toNat
  | .jpV0 nnn => t.pc.toNat = nnn.toNat + (s.reg 0).toNat
  | .ret => s.stack.getLast? = some t.pc
  | .seByte x nn => t.pc = if s.reg x = nn then s.pc + 4 else s.pc + 2
  | .sneByte x nn => t.pc = if s.reg x ≠ nn then s.pc + 4 else s.pc + 2
  | .seReg x y => t.pc = if s.reg x = s.reg y then s.pc + 4 else s.pc + 2
  | .sneReg x y => t.pc = if s.reg x ≠ s.reg y then s.pc + 4 else s.pc + 2
  | .skp x => t.pc = if s.env.keys.getLsbD ((s.reg x).toNat % 16) = true then s.pc + 4 else s.pc + 2
  | .sknp x => t.pc = if s.env.keys.getLsbD ((s.reg x).toNat % 16) = false then s.pc + 4 else s.pc + 2
  | _ => t.pc = s.pc + 2

/-- A skip adds its 2 to the fetch's 2 where its test `P` holds (R151). -/
theorem skipIf_pcAfter {s t : State} {taken : Bool} {P : Prop} [Decidable P]
    (h : (.next ((s.advance.skipIf taken).reply .continued) : Out) = .next t) (ht : taken = true ↔ P) :
    t.pc = if P then s.pc + 4 else s.pc + 2 := by
  rw [← Host.Outcome.next.inj h, State.reply_pc, State.skipIf_pc, State.advance_pc, BitVec.add_assoc]
  exact if_congr ht rfl rfl

theorem exec_pcAfter {i : Instr} {s t : State} (h : exec i s.advance = .next t) (hc : Completed t) : PcAfter i s t := by
  cases i with
  | jp nnn => cases h; exact toNat_addrOf nnn
  | jpV0 nnn => cases h; exact toNat_offsetTarget nnn _
  | call nnn =>
    rw [exec_call] at h
    split at h <;> cases h
    · cases hc
    · exact toNat_addrOf nnn
  | ret =>
    rcases exec_ret_cases s.advance with ⟨-, hr⟩ | ⟨l, a, hl, hr⟩ <;> rw [hr] at h <;> cases h
    · cases hc
    · exact (congrArg List.getLast? hl).trans List.getLast?_concat
  | seByte x nn => exact skipIf_pcAfter h beq_iff_eq
  | sneByte x nn => exact skipIf_pcAfter h bne_iff_ne
  | seReg x y => exact skipIf_pcAfter h beq_iff_eq
  | sneReg x y => exact skipIf_pcAfter h bne_iff_ne
  | skp x => exact skipIf_pcAfter h (keyDown_iff _ _)
  | sknp x => exact skipIf_pcAfter h (not_keyDown_iff _ _)
  | ldVxK x =>
    cases hk : firstKey s.advance.env.keys with
    | none => rw [exec_ldVxK_blocked x hk] at h; cases h; cases hc
    | some k => rw [exec_ldVxK_key x hk] at h; cases h; rfl
  | _ =>
    rcases exec_sameBut h with ⟨f, rfl⟩ | hframe
    · cases hc
    · exact hframe.pc (by simp [writes])

/-- A `Step` that completes has dispatched an instruction, which decides `pc`. -/
theorem stepEvent_pcAfter {s t : State} (h : stepEvent s = .next t) (hc : Completed t) :
    ∃ i, s.dispatches i ∧ PcAfter i s t := by
  cases stepEvent_ends h with
  | completed hi => exact ⟨_, hi, exec_pcAfter ((stepEvent_dispatches hi).symm.trans h) hc⟩
  | latched | halted | fetchFaulted | illegal | faulted | blocked => cases hc

/-- A new fault leaves `pc` past the instruction, unless the fetch itself took it (R257). -/
theorem stepEvent_fault_pc {s t : State} (h : stepEvent s = .next t) (hs : s.fault = none) (ht : t.fault ≠ none) :
    t.pc = if s.pc.toNat + 1 ≤ 0xFFF then s.pc + 2 else s.pc := by
  cases stepEvent_ends h with
  | latched hf => simp [hs] at hf
  | fetchFaulted _ _ hout => exact (if_neg (by omega)).symm
  | illegal hf =>
    obtain ⟨-, -, hin⟩ := hf
    exact (if_pos hin).symm
  | faulted hi =>
    obtain ⟨⟨-, -, hin⟩, -⟩ := hi
    exact (if_pos hin).symm
  | halted | blocked => exact absurd hs ht
  | completed _ hu => exact absurd (hu.fault.trans hs) ht

/-- Settles O15: each answer belongs to the ends of a `Step` that give it. -/
theorem pcAfterStep : Obligations.PcAfterStep := by
  intro s t h
  refine ⟨fun hr => ?_, fun hr => ?_, fun hf => ?_, stepEvent_fault_pc h, stepEvent_pcAfter h⟩
  · cases stepEvent_ends h with
    | halted => rfl
    | latched | fetchFaulted | illegal | faulted | blocked | completed => cases hr
  · cases stepEvent_ends h with
    | blocked => rfl
    | latched | halted | fetchFaulted | illegal | faulted | completed => cases hr
  · obtain ⟨f, hf⟩ := Option.ne_none_iff_exists'.mp hf
    obtain rfl := Host.Outcome.next.inj ((stepEvent_latched hf).symm.trans h)
    rfl

/-! ## Faults are precise (R257) -/

/-- Settles O13: three ends of a `Step` latch a fault; the fetch's fault needs a missing byte, the other two both bytes. -/
theorem faultsArePrecise : Obligations.FaultsArePrecise := by
  intro s t f hs h ht
  cases stepEvent_ends h with
  | latched hf => simp [hs] at hf
  | halted | blocked => cases hs.symm.trans ht
  | completed _ hu => cases hs.symm.trans (hu.fault.symm.trans ht)
  | fetchFaulted _ _ hout => cases ht; exact ⟨fun hin => by omega, fun _ => ⟨rfl, _, rfl⟩⟩
  | illegal hf =>
    obtain ⟨-, -, hin⟩ := hf
    cases ht
    exact ⟨fun _ => rfl, fun hout => by omega⟩
  | faulted hi =>
    obtain ⟨⟨-, -, hin⟩, -⟩ := hi
    cases ht
    exact ⟨fun _ => rfl, fun hout => by omega⟩

end Sys2Proof.Machine
end

section
/-! PROOFS of the invariant (R24, R25, R27, R250): it holds at reset, each event keeps it, so every reachable state has it. A
`Step` keeps its parts one by one. -/

namespace Sys2Proof.Machine

/-! ## The parts of the invariant over one `Step` -/

/-- Memory stays in its canonical form: a `Step` changes it by nothing but a store in range (R77). -/
theorem stepEvent_mem_wf {s t : State} (hm : s.mem.wf) (h : stepEvent s = .next t) : t.mem.wf := by
  rcases stepEvent_cases s with ⟨f, -, hs⟩ | ⟨-, -, hs⟩ | ⟨-, -, -, hs⟩ | ⟨-, -, hs⟩ | ⟨i, -, hs⟩ <;> rw [hs] at h
  · cases h; exact hm
  · cases h; exact hm
  · cases h; exact hm
  · cases h; exact hm
  · rcases exec_fault_or_stores h with ⟨f, -, rfl⟩ | ⟨-, hst⟩
    · exact hm
    · exact hst.wf hm

/-- A pushed entry is the address after a call that lies in memory (R24, R144). -/
theorem stepEvent_stack_le {s t : State} (hs : ∀ a ∈ s.stack, a.toNat ≤ 0x1001) (h : stepEvent s = .next t) :
    ∀ a ∈ t.stack, a.toNat ≤ 0x1001 := by
  rcases stepEvent_stack_cases h with hst | ⟨nnn, ⟨⟨-, -, hin⟩, -⟩, -, hst⟩ | ⟨-, hst⟩
  · rwa [hst]
  · have hpc : (s.pc + 2).toNat ≤ 0x1001 := by bv_omega
    rw [hst]
    exact List.forall_mem_append.mpr ⟨hs, List.forall_mem_singleton.mpr hpc⟩
  · rw [hst] at hs
    exact (List.forall_mem_append.mp hs).1

/-- The farthest an instruction leaves `pc` is the target of `BNNN`, at most 0xFFF + 0xFF (R24). -/
theorem pcAfter_le {i : Instr} {s t : State} (hin : s.pc.toNat + 1 ≤ 0xFFF) (hs : ∀ a ∈ s.stack, a.toNat ≤ 0x1001)
    (h : PcAfter i s t) : t.pc.toNat ≤ 0x10FE := by
  have hnext : (s.pc + 2).toNat ≤ 0x10FE := by bv_omega
  have hskip : (s.pc + 4).toNat ≤ 0x10FE := by bv_omega
  have hif (P : Prop) [Decidable P] (hP : t.pc = if P then s.pc + 4 else s.pc + 2) : t.pc.toNat ≤ 0x10FE := by
    rw [hP]; split <;> assumption
  cases i with
  | jp nnn | call nnn =>
    have hn : nnn.toNat < 4096 := nnn.isLt
    exact h.trans_le (by omega)
  | jpV0 nnn =>
    have hn : nnn.toNat < 4096 := nnn.isLt
    have hv : (s.reg 0).toNat < 256 := (s.reg 0).isLt
    exact h.trans_le (by omega)
  | ret => exact (hs _ (List.mem_of_getLast? h)).trans (by decide)
  | seByte | sneByte | seReg | sneReg | skp | sknp => exact hif _ h
  | _ => exact (congrArg BitVec.toNat h).trans_le hnext

theorem stepEvent_pc_le {s t : State} (hi : Inv s) (h : stepEvent s = .next t) : t.pc.toNat ≤ 0x10FE := by
  have hadv (hf : s.fetches) : (s.pc + 2).toNat ≤ 0x10FE := by
    obtain ⟨-, -, hin⟩ := hf
    bv_omega
  cases stepEvent_ends h with
  | latched | halted | blocked | fetchFaulted => exact hi.pc_le
  | illegal hf => exact hadv hf
  | faulted hd => exact hadv hd.1
  | completed =>
    obtain ⟨i, ⟨⟨-, -, hin⟩, -⟩, hpc⟩ := stepEvent_pcAfter h rfl
    exact pcAfter_le hin hi.stack_le hpc

/-- A fault a `Step` latches is one the core can raise (R250). -/
theorem stepEvent_fault_legal {s t : State} (hs : ∀ f, s.fault = some f → f.legal) (h : stepEvent s = .next t) :
    ∀ f, t.fault = some f → f.legal := by
  rcases stepEvent_cases s with ⟨f, -, hst⟩ | ⟨-, -, hst⟩ | ⟨-, -, -, hst⟩ | ⟨-, ⟨e, hd⟩, hst⟩ | ⟨i, -, hst⟩ <;>
    rw [hst] at h
  · cases h; exact hs
  · cases h; exact hs
  · cases h; rintro _ ⟨⟩; exact legal_memoryOutOfBounds s.pc
  · cases h; rintro _ ⟨⟩; exact (decode_total s.fetchWord).resolve_left fun ⟨i, hi⟩ => by simp [hi] at hd
  · rcases exec_fault_or_stores h with ⟨f, hf, rfl⟩ | ⟨hkeep, -⟩
    · rintro _ ⟨⟩; exact hf
    · rw [hkeep]; exact hs

/-! ## The invariant over each event -/

theorem stepEvent_inv {s t : State} (hi : Inv s) (h : stepEvent s = .next t) : Inv t := by
  obtain ⟨-, hsp, -⟩ := stackMovesByOneFrame.2 s t h
  obtain ⟨p, hframe, -⟩ := stepEvent_sameBut h
  have hend : t.programEnd = s.programEnd := hframe.programEnd
  exact {
    mem_wf := stepEvent_mem_wf hi.mem_wf h
    sp_le := hsp hi.sp_le
    stack_le := stepEvent_stack_le hi.stack_le h
    pc_le := stepEvent_pc_le hi h
    programEnd_ge := hend ▸ hi.programEnd_ge
    programEnd_le := hend ▸ hi.programEnd_le
    fault_legal := stepEvent_fault_legal hi.fault_legal h }

/-- Settles O21: every part evaluated at reset. -/
theorem resetHasInvariant : Obligations.ResetHasInvariant where
  mem_wf := Memory.wf_nil
  sp_le := by decide
  stack_le := by rintro _ ⟨⟩
  pc_le := by decide
  programEnd_ge := by decide
  programEnd_le := by decide
  fault_legal := by rintro _ ⟨⟩

/-- The invariant says nothing of the environment. -/
theorem Inv.withEnv {s : State} (hi : Inv s) (env : Env) : Inv { s with env := env } := { hi with }

/-- A load of at most 3584 bytes is the reset state but for memory and `program_end`, which fit below 0x1000 (R291); a longer
one is refused (R292). -/
theorem load_inv {s : State} (hi : Inv s) (rom : List Byte) : Inv (s.load rom) := by
  by_cases hle : rom.length ≤ 3584
  · have hend := toNat_programEnd_load s hle
    rw [load_of_le s hle] at hend ⊢
    have hreset : Inv State.reset := resetHasInvariant
    exact { hreset with
      mem_wf := Memory.image_wf (show 0x200 + rom.length ≤ 4096 by omega)
      programEnd_ge := hend.ge.trans' (Nat.le_add_right _ _)
      programEnd_le := hend.trans_le (by omega) }
  · rw [load_of_gt s (by omega)]
    exact hi.withEnv _

theorem runEvent_inv {e : Event} {s t : State} (hi : Inv s) (h : runEvent e s = .next t) : Inv t := by
  cases e with
  | step => exact stepEvent_inv hi h
  | tick | clearDirty => cases h; exact { hi with }
  | setKeys => cases h; exact hi.withEnv _
  | load rom => cases h; exact load_inv hi rom

/-- Settles O20: the next event is a `Step` or the first of the schedule, whose removal the invariant does not see. -/
theorem stepKeepsInvariant : Obligations.StepKeepsInvariant := by
  intro s t hi h
  rw [step_eq] at h
  cases hl : s.env.schedule with
  | nil => exact stepEvent_inv hi ((nextEvent_nil hl).symm.trans h)
  | cons e l => exact runEvent_inv (hi.withEnv _) ((nextEvent_cons hl).symm.trans h)

/-! ## From reset on -/

/-- Settles O22: by induction on how the state is reached. -/
theorem reachableStatesHaveInvariant : Obligations.ReachableStatesHaveInvariant := by
  intro s hs
  induction hs with
  | reset => exact resetHasInvariant
  | event e _ h ih => exact runEvent_inv ih h
  | environment env _ ih => exact ih.withEnv env

end Sys2Proof.Machine
end

section
/-! PROOFS about a whole `Step`: which event it is and which instruction it runs (R50, R120, R126), that it reads neither `ST`
nor `dirty` (R30, R33), and when it waits for a key (R243). -/

namespace Sys2Proof.Machine

/-! ## The next event, and the instruction at `pc` (R50, R120) -/

/-- Settles O6: `nextEvent` on an empty schedule and on one with a head. -/
theorem stepRunsNextEvent : Obligations.StepRunsNextEvent :=
  fun _ => ⟨nextEvent_nil, fun _ _ => nextEvent_cons⟩

/-- Two bytes that are those of an instruction, high byte first, are its word (R62). -/
theorem append_of_encodeBytes {hi lo : Byte} {i : Instr} (h : [hi, lo] = encodeBytes i) :
    (hi ++ lo : BitVec (8 + 8)) = encode i := by
  obtain ⟨rfl, rfl⟩ : hi = hiByte (encode i) ∧ lo = loByte (encode i) := by simpa [encodeBytes, wordBytes] using h
  exact hiByte_append_loByte _

/-- Settles O5: both clauses give the word at `pc`, the second through its bytes and `decode_encode`. -/
theorem stepRunsDecodedInstruction : Obligations.StepRunsDecodedInstruction := by
  intro s i hl hf hlt hin
  have hrun (hd : decode s.fetchWord = .ok i) : step s = exec i { s with pc := s.pc + 2 } :=
    (nextEvent_nil hl).trans (stepEvent_dispatches ⟨⟨hf, hlt, hin⟩, hd⟩)
  refine ⟨hrun, fun hwf hbytes => hrun ?_⟩
  have hword : s.fetchWord = encode i := append_of_encodeBytes hbytes
  rw [hword, decode_encode hwf]

/-! ## What a `Step` reads (R30, R33) -/

/-- `s` with other values in `ST` and `dirty`. -/
def State.withStDirty (b : Byte) (d : Bool) (s : State) : State := { s with st := b, dirty := d }

/-- `t'` is `t` but for `ST` and `dirty`. -/
def SameButStDirty (t t' : State) : Prop := t' = t.withStDirty t'.st t'.dirty

/-- Where `o` answers a next state, `o'` answers the same but for `ST` and `dirty`. -/
def Alike (o o' : Out) : Prop := ∀ t, o = .next t → ∃ t', o' = .next t' ∧ SameButStDirty t t'

theorem alike_next {u u' : State} (h : SameButStDirty u u') : Alike (.next u) (.next u') := by
  rintro _ ⟨⟩
  exact ⟨u', rfl, h⟩

section
variable (b : Byte) (d : Bool) (s : State)

theorem alike_raise (f : Fault) : Alike (raise f s) (raise f (s.withStDirty b d)) := alike_next rfl

theorem alike_guardRange (base n : Nat) {go go' : Out} (h : Alike go go') :
    Alike (guardRange base n s go) (guardRange base n (s.withStDirty b d) go') := by
  unfold guardRange
  cases rangeFault base n with
  | none => exact h
  | some f => exact alike_raise b d s f

theorem alike_skipIf (taken : Bool) :
    Alike (s.skipIf taken).done ((s.withStDirty b d).skipIf taken).done := by
  cases taken <;> exact alike_next rfl

/-- No instruction reads `ST` or `dirty`: its tests and the values it writes are the same for both states. -/
theorem exec_alike (i : Instr) : Alike (exec i s) (exec i (s.withStDirty b d)) := by
  cases i with
  | seByte | sneByte | seReg | sneReg | skp | sknp => exact alike_skipIf b d s _
  | drw | ldBVx | ldMemVx | ldVxMem => exact alike_guardRange b d s _ _ (alike_next rfl)
  | call nnn =>
    by_cases hfull : s.sp ≥ 16
    · rw [exec_call, exec_call, if_pos hfull, if_pos (show (s.withStDirty b d).sp ≥ 16 from hfull)]
      exact alike_raise b d s _
    · rw [exec_call, exec_call, if_neg hfull, if_neg (show ¬ (s.withStDirty b d).sp ≥ 16 from hfull)]
      exact alike_next rfl
  | ret =>
    rcases exec_ret_cases s with ⟨hst, hr⟩ | ⟨l, a, hst, hr⟩
    · rw [hr, exec_ret_empty (s := s.withStDirty b d) hst]
      exact alike_raise b d s _
    · rw [hr, exec_ret_pop (s := s.withStDirty b d) hst]
      exact alike_next rfl
  | ldVxK x =>
    cases hk : firstKey s.env.keys with
    | none =>
      rw [exec_ldVxK_blocked x hk, exec_ldVxK_blocked (s := s.withStDirty b d) x hk]
      exact alike_next rfl
    | some k =>
      rw [exec_ldVxK_key x hk, exec_ldVxK_key (s := s.withStDirty b d) x hk]
      exact alike_next rfl
  | _ => exact alike_next rfl

/-- The latch, the halt check and the fetch read neither `ST` nor `dirty` (R120). -/
theorem stepEvent_alike : Alike (stepEvent s) (stepEvent (s.withStDirty b d)) := by
  rcases stepEvent_cases s with ⟨f, hf, hs⟩ | ⟨hf, hle, hs⟩ | ⟨hf, hlt, hout, hs⟩ | ⟨hf, ⟨e, hd⟩, hs⟩ | ⟨i, hi, hs⟩ <;>
    rw [hs]
  · rw [stepEvent_latched (s := s.withStDirty b d) hf]
    exact alike_next rfl
  · rw [stepEvent_halted (s := s.withStDirty b d) hf hle]
    exact alike_next rfl
  · rw [stepEvent_fetch_out (s := s.withStDirty b d) hf hlt (by change 0xFFF < s.pc.toNat + 1; omega)]
    exact alike_next rfl
  · rw [stepEvent_illegal (s := s.withStDirty b d) hf hd]
    exact alike_raise b d s.advance _
  · rw [stepEvent_dispatches (s := s.withStDirty b d) hi]
    exact exec_alike b d s.advance i

end

/-- Settles O19: a `Step` from the state with `ST` and `dirty` replaced answers alike. -/
theorem noStepReadsSoundTimerOrDirty : Obligations.NoStepReadsSoundTimerOrDirty :=
  fun s t b d => stepEvent_alike b d s t

/-! ## Waiting for a key (R243) -/

theorem keys_eq_zero_iff (keys : BitVec 16) : keys = 0 ↔ ∀ k, k < 16 → keys.getLsbD k = false :=
  ⟨by rintro rfl; simp, fun h => BitVec.eq_of_getLsbD_eq fun k hk => by rw [h k hk]; simp⟩

theorem waiting_iff (s : State) :
    s.waiting = true ↔ s.fetches ∧ (∃ x, decode s.fetchWord = .ok (.ldVxK x)) ∧
      ∀ k, k < 16 → s.env.keys.getLsbD k = false := by
  rw [← keys_eq_zero_iff]
  simp only [State.waiting, State.fetches, Bool.and_eq_true, Option.isNone_iff_eq_none, decide_eq_true_eq, beq_iff_eq,
    BitVec.lt_def, Config.memSize, Nat.lt_succ_iff, and_assoc]
  split
  next x hd => simp [hd]
  next hno => exact iff_of_false (by simp) fun ⟨_, _, _, ⟨x, hx⟩, _⟩ => hno x hx

/-- Settles O54: the condition is that of the blocked key wait, which is the one `Step` that answers `Blocked` (R134). -/
theorem waitingIsBlocked : Obligations.WaitingIsBlocked := by
  refine fun s => ⟨waiting_iff s, (waiting_iff s).trans ⟨?_, ?_⟩⟩
  · rintro ⟨hf, ⟨x, hd⟩, hup⟩
    exact ⟨_, stepEvent_blocked ⟨hf, hd⟩ ((firstKey_eq_none _).mpr hup), rfl⟩
  · rintro ⟨t, ht, hres⟩
    obtain ⟨⟨x, hf, hd⟩, hup, -⟩ := blockedOnlyByKeyWait.1 s t ht hres
    exact ⟨hf, ⟨x, hd⟩, hup⟩

end Sys2Proof.Machine
end

section
/-! PROOFS of what a load leaves, element by element (R291, R294). -/

namespace Sys2Proof.Machine

/-! ## Memory after a load (R290, R293, R294) -/

/-- The font's 80 bytes stand at its base, 0 (R294). -/
theorem initial_font {a : Nat} (h : a < 80) : some (Memory.initial a) = Config.font[a]? := by
  have hlen : a < Config.font.length := h
  rw [Memory.initial, Config.fontBase, Nat.sub_zero, List.getElem?_eq_getElem hlen, Option.getD_some]

/-- Memory outside the ROM after a load (R291, R293). -/
theorem byteAt_load_outside (s : State) {rom : List Byte} (h : rom.length ≤ 3584) {a : Nat}
    (ha : ¬ (0x200 ≤ a ∧ a < 0x200 + rom.length)) : (s.load rom).byteAt a = Memory.initial a :=
  (byteAt_load s h a).trans (if_neg ha)

/-- The ROM after a load (R290). -/
theorem byteAt_load_rom (s : State) {rom : List Byte} (h : rom.length ≤ 3584) {k : Nat} (hk : k < rom.length) :
    some ((s.load rom).byteAt (0x200 + k)) = rom[k]? := by
  rw [byteAt_load s h, if_pos (by omega), Nat.add_sub_cancel_left, List.getD_eq_getElem _ _ hk, List.getElem?_eq_getElem hk]

/-- Settles O23: memory by its four regions, every other element read off the reset state. -/
theorem loadDefinesEveryElement : Obligations.LoadDefinesEveryElement := by
  intro rom s h
  have hfont : ∀ a, a < 80 → some ((s.load rom).byteAt a) = Config.font[a]? := fun a ha => by
    rw [byteAt_load_outside s h (by omega), initial_font ha]
  have hzero {a : Nat} (ha : ¬ (0x200 ≤ a ∧ a < 0x200 + rom.length)) (h80 : 80 ≤ a) : (s.load rom).byteAt a = 0 := by
    rw [byteAt_load_outside s h ha, Memory.initial_of_ge h80]
  have hwf : (s.load rom).mem.wf := by
    rw [load_of_le s h]
    exact Memory.image_wf (show 0x200 + rom.length ≤ 4096 by omega)
  refine ⟨s.load rom, rfl, ?_, hfont, fun a _ _ => hzero (by omega) (by omega), fun k => byteAt_load_rom s h,
    fun a _ _ => hzero (by omega) (by omega), hwf, ?_, toNat_programEnd_load s h, ?_⟩ <;> rw [load_of_le s h]
  · rfl
  · refine ⟨fun r => ?_, rfl, rfl, rfl, rfl, rfl, rfl, fun y x => pixel_blank y.val x.val, rfl, rfl, rfl⟩
    exact Vector.getElem_replicate r.isLt

end Sys2Proof.Machine
end

section
/-! PROOFS of VF as an operand of the flag-writing forms (R179), and of the random byte (R178). -/

namespace Sys2Proof.Machine

/-! ## VF as an operand (R179) -/

/-- A form that writes its result and then its flag: the flag stands in VF, the result where VF is not the destination. -/
theorem setReg_setVf_values {i : Instr} {s : State} {x : Reg} {b f : Byte} {Q : State → Prop}
    (h : exec i s = .next (((s.setReg x b).setReg State.vf f).reply .continued))
    (hQ : ∀ t, (x ≠ 15 → t.reg x = b) → t.reg 15 = f → Q t) : ∃ t, exec i s = .next t ∧ Q t := by
  obtain ⟨t, ht, -, hx, hf, -⟩ := setReg_setVf_completes h
  exact ⟨t, ht, hQ t hx hf⟩

/-- A form that writes its flag and then its result: the result stands in its destination, the flag where VF is not that. -/
theorem setVf_setReg_values {i : Instr} {s : State} {x : Reg} {b f : Byte} {Q : State → Prop}
    (h : exec i s = .next (((s.setReg State.vf f).setReg x b).reply .continued))
    (hQ : ∀ t, t.reg x = b → (x ≠ 15 → t.reg 15 = f) → Q t) : ∃ t, exec i s = .next t ∧ Q t :=
  ⟨_, h, hQ _ ((s.setReg State.vf f).reg_setReg_self x b)
    fun hx => ((s.setReg State.vf f).reg_setReg_ne b hx.symm).trans (s.reg_setReg_self 15 f)⟩

/-- Settles O32: the addition writes VF last, the other forms first; every operand is the old value. -/
theorem flagRegisterAsOperand : Obligations.FlagRegisterAsOperand := by
  intro x y s hx hy
  refine ⟨setReg_setVf_values (exec_addReg 15 y s) fun t _ hf => hf.trans (carryFlag_eq _ _),
    setReg_setVf_values (exec_addReg x 15 s) fun t hb hf =>
      ⟨by rw [hb hx, BitVec.toNat_add], hf.trans (carryFlag_eq _ _)⟩,
    setReg_setVf_values (exec_addReg 15 15 s) fun t _ hf => by rw [hf, carryFlag_eq, two_mul],
    setVf_setReg_values (exec_subReg 15 y s) fun t hb _ => by rw [hb, toNat_sub_byte],
    setVf_setReg_values (exec_subReg x 15 s) fun t hb hf =>
      ⟨by rw [hb, toNat_sub_byte], (hf hx).trans (noBorrowFlag_eq _ _)⟩,
    setVf_setReg_values (exec_subReg 15 15 s) fun t hb _ => hb.trans (BitVec.sub_self _),
    fun z => setVf_setReg_values (exec_shr 15 z s) fun t hb _ => by rw [hb, toNat_shiftRight_one],
    setVf_setReg_values (exec_subnReg 15 y s) fun t hb _ => by rw [hb, toNat_sub_byte],
    setVf_setReg_values (exec_subnReg x 15 s) fun t hb hf =>
      ⟨by rw [hb, toNat_sub_byte], (hf hx).trans (noBorrowFlag_eq _ _)⟩,
    setVf_setReg_values (exec_subnReg 15 15 s) fun t hb _ => hb.trans (BitVec.sub_self _),
    fun z => setVf_setReg_values (exec_shl 15 z s) fun t hb _ => by rw [hb, toNat_shiftLeft_one]⟩

/-! ## The random byte (R178) -/

/-- A byte waiting at the input is the next one taken (R44). -/
theorem rndByte_of_cons {s : State} {b : Byte} {rest : List Byte} (h : s.env.rndIn = b :: rest) : s.rndByte = b := by
  simp [State.rndByte, h]

/-- Settles O33: one byte taken and one register write; ANDing with `NN` clears the bits that `NN` has clear. -/
theorem randomByteMasked : Obligations.RandomByteMasked := by
  intro x nn s
  have hx : ((s.rndTaken.setReg x (s.rndByte &&& nn)).reply .continued).reg x = s.rndByte &&& nn :=
    State.reg_setReg_self ..
  refine ⟨decode_rnd x nn, _, exec_rnd x nn s, rfl, hx, fun b rest hin => ⟨?_, congrArg List.tail hin⟩,
    congrArg List.tail, rfl, fun k hk => ?_,
    (SameRegsBut.setReg (t := s.rndTaken) (.refl _ s) _ (by simp)).reply _,
    ((SameBut.refl _ s).rndTaken.setReg x _).reply _⟩
  · rw [hx, rndByte_of_cons hin]
  · rw [hx, BitVec.getLsbD_and, hk, Bool.and_false]

end Sys2Proof.Machine
end

section
/-! PROOFS of a store followed by a load (R197, R198) or by a fetch (R74). -/

namespace Sys2Proof.Machine

/-- Settles O39: `FX65` reads the bytes `FX55` stored, since nothing in between changed memory or `I`. -/
theorem storeThenLoadRestores : Obligations.StoreThenLoadRestores := by
  intro x s hm hin
  obtain ⟨-, hstore, -⟩ := registerStore x s hm
  obtain ⟨t, ht, -, hbytes, -⟩ := hstore hin
  refine ⟨t, ht, fun s' hmem hi => ?_⟩
  obtain ⟨-, hload, -⟩ := registerLoad x s'
  obtain ⟨u, hu, -, hregs, -⟩ := hload (hi ▸ hin)
  refine ⟨u, hu, fun k hk => ?_⟩
  calc u.reg k
    _ = s'.byteAt (s.i.toNat + k.val) := by rw [hregs k hk, hi]
    _ = t.byteAt (s.i.toNat + k.val) := by rw [State.byteAt, hmem, State.byteAt]
    _ = s.reg k := hbytes k hk

/-- Settles O40: the two bytes at the next `pc` are V0 and V1, the first two that were stored at `I`. -/
theorem storeIsSeenByNextFetch : Obligations.StoreIsSeenByNextFetch := by
  intro x s i hm hfx hx hi hin hlt hd
  obtain ⟨-, hstore, -⟩ := registerStore x s.advance hm
  obtain ⟨t, ht, -, hbytes, -, hframe⟩ := hstore hin
  have hpc : t.pc = s.i := (hframe.pc (by simp)).trans hi.symm
  have h0 : t.byteAt s.i.toNat = s.reg 0 := hbytes 0 (Fin.zero_le x)
  have h1 : t.byteAt (s.i.toNat + 1) = s.reg 1 := hbytes 1 hx
  have hword : t.fetchWord = (s.reg 0 ++ s.reg 1 : BitVec (8 + 8)) := by rw [State.fetchWord, hpc, h0, h1]
  have hstep : stepEvent s = .next t := (stepEvent_dispatches hfx).trans ht
  obtain ⟨⟨hf, -, -⟩, -⟩ := hfx
  refine ⟨t, hstep, ⟨hframe.fault.trans hf, ?_, ?_⟩, hword ▸ hd⟩
  · rw [hpc, hframe.programEnd]; exact hlt
  · rw [hpc]; omega

end Sys2Proof.Machine
end

section
/-! PROOFS of a call undone by a return (R153), and of nested calls (R144, R252). -/

namespace Sys2Proof.Machine

/-- Settles O49: the frame that the return pops is the one the call pushed, so stack and `pc` are what they were. -/
theorem returnUndoesCall : Obligations.ReturnUndoesCall := fun nnn s hlt =>
  ⟨_, _, exec_call_push nnn hlt, exec_ret_pop (l := s.stack) (a := s.pc) rfl, (SameBut.refl [] s).reply .continued⟩

theorem callAll_cons {n : BitVec 12} {s t : State} (h : exec (.call n) s = .next t) (l : List (BitVec 12)) :
    callAll (n :: l) s = callAll l t := by
  rw [callAll, h]

/-- Calls that the stack has room for push one frame each and take no fault. -/
theorem callAll_push (l : List (BitVec 12)) : ∀ s : State, s.sp + l.length ≤ 16 →
    ∃ t, callAll l s = .next t ∧ t.sp = s.sp + l.length ∧ t.fault = s.fault := by
  induction l with
  | nil => exact fun s _ => ⟨s, rfl, rfl, rfl⟩
  | cons n l ih =>
    intro s hlen
    rw [List.length_cons] at hlen ⊢
    have hpush := exec_call_push n (s := s) (by omega)
    have hsp := s.sp_push s.pc
    obtain ⟨t, ht, htsp, htf⟩ := ih (((s.push s.pc).setPc (addrOf n)).reply .continued)
      (by rw [State.sp_reply, State.sp_setPc, hsp]; omega)
    rw [State.sp_reply, State.sp_setPc, hsp] at htsp
    exact ⟨t, (callAll_cons hpush l).trans ht, by omega, htf⟩

/-- One more call after a list of calls that ended well. -/
theorem callAll_concat (n : BitVec 12) (l : List (BitVec 12)) : ∀ {s t : State}, callAll l s = .next t →
    callAll (l ++ [n]) s = exec (.call n) t := by
  induction l with
  | nil =>
    rintro s _ ⟨⟩
    obtain ⟨u, hu, -⟩ := exec_ends (.call n) s
    exact (callAll_cons hu []).trans hu.symm
  | cons m l ih =>
    intro s t h
    obtain ⟨u, hu, -⟩ := exec_ends (.call m) s
    rw [callAll_cons hu] at h
    rw [List.cons_append, callAll_cons hu, ih h]

/-- Settles O50: 16 frames fit; the 17th call meets the full stack. -/
theorem sixteenCallsNest : Obligations.SixteenCallsNest := by
  intro l s hempty
  have hsp : s.sp = 0 := by rw [State.sp, hempty, List.length_nil]
  have hpush (hlen : l.length ≤ 16) : ∃ t, callAll l s = .next t ∧ t.sp = l.length ∧ t.fault = s.fault := by
    have := callAll_push l s (by omega)
    rwa [hsp, Nat.zero_add] at this
  refine ⟨hpush, fun hlen nnn => ?_⟩
  obtain ⟨t, ht, htsp, -⟩ := hpush hlen.le
  have hfull : t.sp = 16 := htsp.trans hlen
  exact ⟨t.faulted .stackOverflow, (callAll_concat nnn l ht).trans (exec_call_full nnn hfull), hfull, rfl⟩

end Sys2Proof.Machine
end

section
/-! PROOFS of `DXYN`: the pixels it flips and the collision it reports (R215), and that drawing twice restores the screen
(R216). -/

namespace Sys2Proof.Machine

/-! ## The collision (R215) -/

/-- A lit pixel under the sprite is named by its coordinates or by the sprite's row and column, which wrap to them. -/
theorem exists_spriteLights_iff (s : State) (x0 y0 n : Nat) :
    (∃ py px, s.spriteLights x0 y0 n py px ∧ s.pixel py px = true) ↔
      ∃ row, row < n ∧ ∃ col, col < 8 ∧ (s.byteAt (s.i.toNat + row)).getLsbD (7 - col) = true ∧
        Screen.pixel s.fb (y0 + row) (x0 + col) = true := by
  constructor
  · rintro ⟨py, px, ⟨row, hrow, col, hcol, hbit, hpy, hpx⟩, hlit⟩
    refine ⟨row, hrow, col, hcol, hbit, ?_⟩
    rwa [← pixel_mod, hpy, hpx]
  · rintro ⟨row, hrow, col, hcol, hbit, hlit⟩
    refine ⟨⟨(y0 + row) % 32, Nat.mod_lt _ (by decide)⟩, ⟨(x0 + col) % 64, Nat.mod_lt _ (by decide)⟩,
      ⟨row, hrow, col, hcol, hbit, rfl, rfl⟩, ?_⟩
    rwa [State.pixel, pixel_mod]

/-- A sprite of at most 32 rows drawn on the screen of `s`: its canvas has a hit exactly where it lights a lit pixel. -/
theorem hit_drawRows_iff (s : State) (x0 y0 : Nat) {n : Nat} (hn : n ≤ 32) :
    (drawRows x0 y0 (s.bytesAt s.i.toNat n) { fb := s.fb, hit := false }).hit = true ↔
      ∃ py px, s.spriteLights x0 y0 n py px ∧ s.pixel py px = true := by
  have hlen : (s.bytesAt s.i.toNat n).length = n := Memory.readBytes_length ..
  have hget : ∀ row, row < n → (s.bytesAt s.i.toNat n).getD row 0 = s.byteAt (s.i.toNat + row) :=
    Memory.getD_readBytes s.mem n s.i.toNat
  rw [drawRows_hit x0 _ y0 _ (hlen.trans_le hn), exists_spriteLights_iff, hlen]
  simp only [Bool.false_eq_true, false_or]
  refine exists_congr fun row => and_congr_right fun hrow => ?_
  rw [hget row hrow]

theorem reg_vf_drawSprite (s : State) (x0 y0 : Nat) {n : Nat} (hn : n ≤ 32) :
    ((∃ py px, s.spriteLights x0 y0 n py px ∧ s.pixel py px = true) → (s.drawSprite x0 y0 n).reg 15 = 1) ∧
      ((¬ ∃ py px, s.spriteLights x0 y0 n py px ∧ s.pixel py px = true) → (s.drawSprite x0 y0 n).reg 15 = 0) := by
  rw [← hit_drawRows_iff s x0 y0 hn, State.drawSprite, State.vf, State.reg_setReg_self, collisionFlag]
  refine ⟨fun hhit => by rw [hhit]; rfl, fun hhit => ?_⟩
  rw [Bool.eq_false_iff.mpr hhit]
  rfl

/-! ## One draw (R215) -/

/-- Settles O42: in range the drawing engine, pixel by pixel, and its collision; out of range `exec_drw_out`. -/
theorem drawFlipsAndDetects : Obligations.DrawFlipsAndDetects := by
  refine fun x y n s => ⟨decode_drw x y n, fun hin => ?_, exec_drw_out x y⟩
  have hrange : n.toNat = 0 ∨ s.i.toNat + n.toNat ≤ 4096 := by
    rcases hin with rfl | hin
    · exact .inl rfl
    · omega
  have hn : n.toNat ≤ 32 := n.isLt.le.trans (by decide)
  have hpixel (py px) := pixel_drawSprite s ((s.reg x).toNat % 64) ((s.reg y).toNat % 32) hn py px
  obtain ⟨hone, hzero⟩ := reg_vf_drawSprite s ((s.reg x).toNat % 64) ((s.reg y).toNat % 32) hn
  refine ⟨_, exec_drw_in x y hrange, rfl, fun py px hlit => ?_, fun py px hlit => ?_, hone, hzero, rfl,
    (SameRegsBut.setReg (t := s.setScreen _) (.refl _ s) _ (by simp [State.vf])).reply _,
    (((SameBut.refl _ s).setScreen _).setReg _ _).reply _⟩
  · rw [State.pixel_reply, hpixel, decide_eq_true (spriteLit_bytesAt.mpr hlit), Bool.xor_true]
  · rw [State.pixel_reply, hpixel, decide_eq_false (spriteLit_bytesAt.not.mpr hlit), Bool.xor_false]

/-! ## Two draws (R216) -/

/-- A screen is its pixels. -/
theorem screen_ext {fb fb' : Screen} (h : ∀ (y : Fin 32) (x : Fin 64), Screen.pixel fb y x = Screen.pixel fb' y x) :
    fb = fb' := by
  refine Vector.ext fun y hy => BitVec.eq_of_getLsbD_eq fun x hx => ?_
  simpa [Screen.pixel, Nat.mod_eq_of_lt hy, Nat.mod_eq_of_lt hx] using h ⟨y, hy⟩ ⟨x, hx⟩

/-- The sprite is read from memory at `I`. -/
theorem spriteLights_congr {s t : State} (hm : SameMemory s t) (hi : t.i = s.i) (x0 y0 n : Nat) (y : Fin 32) (x : Fin 64) :
    t.spriteLights x0 y0 n y x ↔ s.spriteLights x0 y0 n y x := by
  unfold State.spriteLights
  rw [hi]
  simp only [hm _]

/-- A byte that is 1 where `P` holds and 0 elsewhere tells whether `P` holds. -/
theorem eq_one_iff_of_flag {b : Byte} {P : Prop} (h1 : P → b = 1) (h0 : ¬ P → b = 0) : b = 1 ↔ P :=
  ⟨fun hb => by_contra fun hP => absurd (hb.symm.trans (h0 hP)) (by decide), h1⟩

/-- Settles O43: neither draw changes the sprite or the coordinates, so the second flips the pixels of the first back, and
finds lit what the first found dark. -/
theorem doubleDrawRestores : Obligations.DoubleDrawRestores := by
  intro x y n s hx hy hin
  obtain ⟨-, hfirst, -⟩ := drawFlipsAndDetects x y n s
  obtain ⟨t, ht, -, hflip, hkeep, hone, hzero, -, hregs, hframe⟩ := hfirst hin
  have hi : t.i = s.i := hframe.index (by simp)
  have hm : SameMemory s t := hframe.memory (by simp)
  obtain ⟨-, hsecond, -⟩ := drawFlipsAndDetects x y n t
  obtain ⟨u, hu, -, hflip', hkeep', hone', hzero', -⟩ := hsecond (hi ▸ hin)
  rw [hregs x (by simpa using hx), hregs y (by simpa using hy)] at hflip' hkeep' hone' hzero'
  simp only [spriteLights_congr hm hi] at hflip' hkeep' hone' hzero'
  refine ⟨t, u, ht, hu, screen_ext fun py px => ?_, eq_one_iff_of_flag hone hzero,
    (eq_one_iff_of_flag hone' hzero').trans (exists₂_congr fun py px => and_congr_right fun hlit => ?_)⟩
  · change u.pixel py px = s.pixel py px
    by_cases hlit : s.spriteLights ((s.reg x).toNat % 64) ((s.reg y).toNat % 32) n.toNat py px
    · rw [hflip' py px hlit, hflip py px hlit, Bool.not_not]
    · rw [hkeep' py px hlit, hkeep py px hlit]
  · rw [hflip py px hlit, Bool.not_eq_true']

end Sys2Proof.Machine
end
